-- ==== Sys2Proof/Word.lean ====
section
/-!
DEFINITION. The word types of TQB (spec/00_scope.md R11, R12): what the spec itself treats as bits.
-/

namespace Sys2Proof

/-- A byte, 8 bits (R11). -/
abbrev Byte := BitVec 8

/-- One 8-bit element of a sequence operand or result (R16, R45); the operation decides whether it is
read as `u8` or as `s8` (R12, R63). -/
abbrev Lane := BitVec 8

/-- A Q8 word: 16 bits, two's complement, LSB 1/256 symbol period (R9, R150). -/
abbrev Q8 := BitVec 16

/-- An IEEE 754 binary64 bit pattern, sign in bit 63 (R22, R44). -/
abbrev ToaBits := BitVec 64

end Sys2Proof
end

