-- ==== Sys2Proof/Config.lean ====
section
/-!
DEFINITION. The configuration record of TQB (spec/10_state.md R25) and the named parameters that an
instantiation fixes (spec/00_scope.md R6 to R8). The parameters have no body: the spec gives them no value.
-/

namespace Sys2Proof

/-- `Nat or unbounded`, the type of `P_MAX_SEQ_LEN` (R8, R25). -/
inductive SeqLimit where
  /-- No limit: the default (R8). -/
  | unbounded
  /-- At most `lanes` lanes in one request. -/
  | atMost (lanes : Nat)
deriving DecidableEq, Repr

/-- The configuration record `Cfg` (R25): fixed at instantiation, read-only, with no address. -/
structure Cfg where
  /-- `normal_len`, the normal burst length (R6). -/
  normalLen : Nat
  /-- `edge_len`, the enhanced-data-rate burst length (R7). -/
  edgeLen : Nat
  /-- `max_seq_len`, the capacity of one request in lanes (R8). -/
  maxSeqLen : SeqLimit
deriving DecidableEq, Repr

/-- `P_NORMAL_LEN` (R6): OPEN in the spec (D14), so a constant of which nothing can be proved. DESIGN CHOICE, log 1 (safe). -/
opaque Config.pNormalLen : Nat

/-- `P_EDGE_LEN` (R7): OPEN in the spec (D14); it may equal `P_NORMAL_LEN`. DESIGN CHOICE, log 1 (safe). -/
opaque Config.pEdgeLen : Nat

/-- By how many lanes a finite `P_MAX_SEQ_LEN` exceeds the longer burst length; `none` stands for
`unbounded`. Every value is one R8 permits and every value R8 permits is one of these. DESIGN CHOICE, log 2 (safe). -/
opaque Config.capacityMargin : Option Nat

/-- `P_MAX_SEQ_LEN` (R8, D15). DESIGN CHOICE, log 2 (safe): left open, so that the default `unbounded`
and every permitted finite value are covered at once. -/
def Config.pMaxSeqLen : SeqLimit :=
  match Config.capacityMargin with
  | none => .unbounded
  | some k => .atMost (max Config.pNormalLen Config.pEdgeLen + k)

/-- The instantiation values (R25, R232): what `Cfg` holds from instantiation on. -/
def Config.cfg : Cfg :=
  { normalLen := Config.pNormalLen
    edgeLen := Config.pEdgeLen
    maxSeqLen := Config.pMaxSeqLen }

end Sys2Proof
end

