-- ==== Sys2Proof/Syntax.lean ====
section
/-!
DEFINITION. Requests, formats and the eight operations of TQB-OPS version 1 (spec/00_scope.md R2,
spec/10_state.md R22, spec/30_encoding.md R60 to R62), and the text form of a request (R67).
-/

namespace Sys2Proof

/-- One request, the input port (R22, R60). It is what the host drives: the encoded form of an operation. -/
structure Request where
  /-- `op`, the operation select (R61). -/
  op : Byte
  /-- `seq_present`: `true` is bit 1, a sequence operand is supplied. -/
  seqPresent : Bool
  /-- `seq`, the lanes, lane 0 first (R45). -/
  seq : List Lane
  /-- `toa_present`: `true` is bit 1, a ToA operand is supplied. -/
  toaPresent : Bool
  /-- `toa`, a binary64 bit pattern (R44). -/
  toa : ToaBits
  /-- `w_hi`, the first received ToA byte (Q8 word bits 15..8). -/
  wHi : Byte
  /-- `w_lo`, the second received ToA byte (Q8 word bits 7..0). -/
  wLo : Byte
deriving DecidableEq, Repr

/-- The four formats (R62): which request fields an operation reads. -/
inductive Format where
  /-- `seq_present` and `seq`, lane by lane. -/
  | fs
  /-- `seq_present` and the length of `seq`. -/
  | fb
  /-- `toa_present` and `toa`. -/
  | ft
  /-- `w_hi` and `w_lo`. -/
  | fw
deriving DecidableEq, Repr

/-- The eight operations (R2, R61), each with the operands its format reads (R62). An operand that a
presence bit can leave out is an `Option`, the spec's `Opt` (R14): `none` is ABSENT. -/
inductive Instr where
  /-- 0x10, format FS: unsigned soft bits to signed soft bits (R101). -/
  | ubit2sbit (seq : Option (List Lane))
  /-- 0x11, format FS: signed soft bits to unsigned soft bits (R103). -/
  | sbit2ubit (seq : Option (List Lane))
  /-- 0x12, format FS: signed soft bits to hard bits (R105). -/
  | sbit2hbit (seq : Option (List Lane))
  /-- 0x13, format FS: hard bits to signed soft bits (R107). -/
  | hbit2sbit (seq : Option (List Lane))
  /-- 0x20, format FB: burst-length check (R130). -/
  | burstchk (seq : Option (List Lane))
  /-- 0x30, format FT: ToA range check (R151). -/
  | toachk (toa : Option ToaBits)
  /-- 0x31, format FT: ToA quantize to Q8 (R153). -/
  | toaq (toa : Option ToaBits)
  /-- 0x32, format FW: ToA receive-path read (R160). -/
  | toadq (wHi wLo : Byte)
deriving DecidableEq, Repr

/-- The format column of R61. -/
def Instr.format : Instr → Format
  | .ubit2sbit _ => .fs
  | .sbit2ubit _ => .fs
  | .sbit2hbit _ => .fs
  | .hbit2sbit _ => .fs
  | .burstchk _ => .fb
  | .toachk _ => .ft
  | .toaq _ => .ft
  | .toadq _ _ => .fw

/-- How R67 writes one lane: in decimal, or as a lane byte `0x..`. -/
inductive LaneText where
  | decimal (v : Int)
  | byte (b : Byte)
deriving DecidableEq, Repr

/-- How R67 writes an FS or FB operand. -/
inductive SeqText where
  /-- `[v0, v1, ...]`. -/
  | lanes (l : List LaneText)
  /-- `-`: an absent sequence. -/
  | absent
  /-- `#n`: a present sequence of `n` lanes, all 0x00. -/
  | zeros (n : Nat)
  /-- `rK`: the `seq_out` of the response to request `K`. -/
  | result (k : Nat)
deriving DecidableEq, Repr

/-- How R67 writes an FT operand. -/
inductive ToaText where
  /-- A decimal literal: `digits` shifted right by `scale` decimal places, negated if `neg`. -/
  | decimal (neg : Bool) (digits scale : Nat)
  /-- `0x` and 16 hexadecimal digits. -/
  | pattern (b : ToaBits)
  /-- `-`: an absent ToA. -/
  | absent
deriving DecidableEq, Repr

/-- One line of a host program as R67 writes it: one request per line; its
characters are read in Machine/Text.lean. DESIGN CHOICE, log 10 (safe). -/
inductive Line where
  | ubit2sbit (t : SeqText)
  | sbit2ubit (t : SeqText)
  | sbit2hbit (t : SeqText)
  | hbit2sbit (t : SeqText)
  | burstchk (t : SeqText)
  | toachk (t : ToaText)
  | toaq (t : ToaText)
  | toadq (wHi wLo : Byte)
  /-- `op 0xHH`: a request with this `op` byte, its other fields zero or absent. -/
  | rawOp (op : Byte)
deriving DecidableEq, Repr

end Sys2Proof
end

