-- ==== Sys2Proof/Machine/State.lean ====
section
/-!
DEFINITION. The state of the model (spec/10_state.md). TQB itself keeps nothing between operations (R20): what
State holds is its read-only configuration (R25) and its two ports (R22, R23).
-/

namespace Sys2Proof.Machine

/-- One response, the output port (R23). `none` is `ABSENT`: the field holds no value (R24). -/
structure Response where
  /-- `status`, the outcome code (R201). -/
  status : Byte
  /-- `valid`: `some true` is bit 1, the operand passes the check; `some false` is bit 0. -/
  valid : Option Bool
  /-- `q`, the Q8 word. -/
  q : Option Q8
  /-- `q_hi = q[15:8]`, the first byte in wire order (R42). -/
  qHi : Option Byte
  /-- `q_lo = q[7:0]`, the second byte in wire order (R42). -/
  qLo : Option Byte
  /-- `seq_out`, the converted sequence. -/
  seqOut : Option (List Lane)
  /-- `toa_out`, the decoded ToA, as a binary64 pattern; no operation ever makes it present. -/
  toaOut : Option ToaBits
deriving DecidableEq, Repr

/-- The data fields of a response that can be `ABSENT` (R23, R24). -/
inductive DataField where
  | valid
  | q
  | qHi
  | qLo
  | seqOut
  | toaOut
deriving DecidableEq, Repr

/-- The unit between two steps. DESIGN CHOICE: log 3 (safe: the configuration stands
here) and log 4 (unsafe: the ports stand here). -/
structure State where
  /-- `Cfg` (R25), the instantiation's values: no operation and no reset changes it (R25, R28). -/
  cfg : Cfg
  /-- The input port (R22): the request the host has issued and TQB has not yet taken, if any. -/
  request : Option Request
  /-- The output port (R23): the last response, if there has been one since reset (R28). -/
  response : Option Response
deriving DecidableEq, Repr

/-- Why the machine stops with a fault: it never does. TQB's errors are responses (R200, R211), it has no
traps (R211, R212) and no address an access could miss (R40), so this type has no constructor. DEDUCED, log 8
(unsafe: a realisation could stop where this model goes on). -/
inductive Fault where
deriving DecidableEq, Repr

/-- Why something is refused. No operation of TQB is; the refusals below are the host side's. -/
inductive Refusal where
  /-- Raised by an arm of `exec` whose instruction has no meaning yet; no arm is in that case. Safe. -/
  | notModelled (mnemonic : String)
  /-- Raised by the host-side reading of an `ABSENT` field, which R24 has a model refuse. Safe: no value is
  given. -/
  | absentField (field : DataField)
  /-- Raised by the host side when a text line is written in no lane type of its operation (R67). Safe. -/
  | illFormedLine
  /-- Raised by the host side when `rK` names a request that has had no response (R67). Safe. -/
  | noSuchResponse (k : Nat)
  /-- Raised by the host side when it looks for a response and none has been delivered (R28, R231). Safe. -/
  | noResponse
deriving DecidableEq, Repr

/-- The machine right after reset (R28, R230): the configuration at its instantiation values, no request
issued and no response in existence. -/
def State.reset : State :=
  { cfg := Config.cfg, request := none, response := none }

end Sys2Proof.Machine
end

