-- ==== Sys2Proof/Machine/Flags.lean ====
section
/-!
DEFINITION. TQB has no flags, condition codes or predicates (spec/10_state.md R25). Its outcome indications
are the status code (spec/60_exceptions.md R201) and the `valid` bit of a check (R130, R151).
-/

namespace Sys2Proof.Machine

/-- The five outcomes a response can report (R201). -/
inductive Status where
  /-- No error. -/
  | ok
  /-- TOAQ: the ToA is absent, NaN or outside [-10.0, 10.0] (R203). -/
  | validation
  /-- A converter operation: the sequence is absent or a lane is outside the domain (R205). -/
  | domain
  /-- Any request: `op` is not assigned (R202). -/
  | illegalOp
  /-- An FS or FB request: more lanes than `P_MAX_SEQ_LEN` (R204). -/
  | capacity
deriving DecidableEq, Repr

/-- The numeric values of R201; 0x05 to 0xFF are never produced. -/
def Status.code : Status → Byte
  | .ok => 0x00#8
  | .validation => 0x01#8
  | .domain => 0x02#8
  | .illegalOp => 0x03#8
  | .capacity => 0x04#8

end Sys2Proof.Machine
end

