-- ==== Sys2Proof/WellFormed.lean ====
section
/-!
DEFINITION. The checks the spec makes on a configuration (spec/00_scope.md R8), on the size of an operation
(spec/30_encoding.md R66) and on a written request (R67). Every other constraint on an operation is a type
of Syntax.lean (8-bit lanes, a 64-bit ToA, two received bytes), so every `Instr` decodes and encodes.
-/

namespace Sys2Proof

/-- `n` lanes fit the capacity (R8, R66). -/
def SeqLimit.admits (limit : SeqLimit) (n : Nat) : Bool :=
  match limit with
  | .unbounded => true
  | .atMost cap => decide (n ≤ cap)

/-- A finite `P_MAX_SEQ_LEN` is at least both burst lengths, so that every valid burst fits (R8). -/
def Cfg.wf (cfg : Cfg) : Bool :=
  cfg.maxSeqLen.admits (max cfg.normalLen cfg.edgeLen)

/-- The size check of R66: a sequence operand holds any number of lanes, subject to `P_MAX_SEQ_LEN`.
An operation that fails it still runs, and answers CAPACITY (R204). -/
def Instr.fits (cfg : Cfg) : Instr → Bool
  | .ubit2sbit (some seq) => cfg.maxSeqLen.admits seq.length
  | .sbit2ubit (some seq) => cfg.maxSeqLen.admits seq.length
  | .sbit2hbit (some seq) => cfg.maxSeqLen.admits seq.length
  | .hbit2sbit (some seq) => cfg.maxSeqLen.admits seq.length
  | .burstchk (some seq) => cfg.maxSeqLen.admits seq.length
  | .ubit2sbit none => true
  | .sbit2ubit none => true
  | .sbit2hbit none => true
  | .hbit2sbit none => true
  | .burstchk none => true
  | .toachk _ => true
  | .toaq _ => true
  | .toadq _ _ => true

/-- A lane written for an operation that reads `u8` lies in [0, 255] (R12, R67). -/
def LaneText.wfUnsigned : LaneText → Bool
  | .decimal v => decide (0 ≤ v ∧ v ≤ 255)
  | .byte _ => true

/-- A lane written for an operation that reads `s8` lies in [-128, 127] (R12, R67). -/
def LaneText.wfSigned : LaneText → Bool
  | .decimal v => decide (-128 ≤ v ∧ v ≤ 127)
  | .byte _ => true

/-- Every lane written in an operand passes `laneWf`; the other forms hold no lane. -/
def SeqText.wf (laneWf : LaneText → Bool) : SeqText → Bool
  | .lanes l => l.all laneWf
  | .absent => true
  | .zeros _ => true
  | .result _ => true

/-- The lanes of a line are written in the type its operation reads them as (R67). -/
def Line.wf : Line → Bool
  | .ubit2sbit t => t.wf LaneText.wfUnsigned
  | .sbit2ubit t => t.wf LaneText.wfSigned
  | .sbit2hbit t => t.wf LaneText.wfSigned
  | .hbit2sbit t => t.wf LaneText.wfUnsigned
  | .burstchk t => t.wf LaneText.wfUnsigned
  | .toachk _ => true
  | .toaq _ => true
  | .toadq _ _ => true
  | .rawOp _ => true

end Sys2Proof
end

