-- ==== Sys2Proof/Decode.lean ====
section
/-!
DEFINITION. Decoding a request into an operation and encoding an operation as a request
(spec/30_encoding.md R60 to R66). A decoder reads `op` alone to know the operation and its format (R60).
-/

namespace Sys2Proof

/-- Why a request has no operation (R65, R202). -/
inductive DecodeError where
  /-- `op` is one of the 248 reserved values of R65. -/
  | illegalOp (op : Byte)
deriving DecidableEq, Repr

/-- A request with this `op` byte and its other fields zero or absent (R67). -/
def Request.blank (op : Byte) : Request :=
  { op := op, seqPresent := false, seq := [], toaPresent := false, toa := 0#64, wHi := 0#8, wLo := 0#8 }

/-- The sequence operand of formats FS and FB: presence bit and lanes (R14, R22, R62). DEDUCED, log 7 (unsafe). -/
def Request.seqOperand (r : Request) : Option (List Lane) :=
  if r.seqPresent then some r.seq else none

/-- The ToA operand of format FT: presence bit and pattern (R14, R22, R62). DEDUCED, log 7 (unsafe). -/
def Request.toaOperand (r : Request) : Option ToaBits :=
  if r.toaPresent then some r.toa else none

/-- The decoder of R64: eight assigned values of `op`, every other one rejected by name. -/
def decode (r : Request) : Except DecodeError Instr :=
  match r.op with
  | 0x10#8 => .ok (.ubit2sbit r.seqOperand)
  | 0x11#8 => .ok (.sbit2ubit r.seqOperand)
  | 0x12#8 => .ok (.sbit2hbit r.seqOperand)
  | 0x13#8 => .ok (.hbit2sbit r.seqOperand)
  | 0x20#8 => .ok (.burstchk r.seqOperand)
  | 0x30#8 => .ok (.toachk r.toaOperand)
  | 0x31#8 => .ok (.toaq r.toaOperand)
  | 0x32#8 => .ok (.toadq r.wHi r.wLo)
  | op => .error (.illegalOp op)

/-- The `op` byte of an operation, `{fam, fn}` (R61). -/
def Instr.opByte : Instr → Byte
  | .ubit2sbit _ => 0x1#4 ++ 0x0#4
  | .sbit2ubit _ => 0x1#4 ++ 0x1#4
  | .sbit2hbit _ => 0x1#4 ++ 0x2#4
  | .hbit2sbit _ => 0x1#4 ++ 0x3#4
  | .burstchk _ => 0x2#4 ++ 0x0#4
  | .toachk _ => 0x3#4 ++ 0x0#4
  | .toaq _ => 0x3#4 ++ 0x1#4
  | .toadq _ _ => 0x3#4 ++ 0x2#4

/-- A request of format FS or FB (R62). -/
def Request.withSeq (op : Byte) (seq : Option (List Lane)) : Request :=
  match seq with
  | none => Request.blank op
  | some l => { Request.blank op with seqPresent := true, seq := l }

/-- A request of format FT (R62). -/
def Request.withToa (op : Byte) (toa : Option ToaBits) : Request :=
  match toa with
  | none => Request.blank op
  | some t => { Request.blank op with toaPresent := true, toa := t }

/-- A request of format FW (R62). -/
def Request.withReceived (op wHi wLo : Byte) : Request :=
  { Request.blank op with wHi := wHi, wLo := wLo }

/-- The request of an operation: the fields its format reads, the others zero or absent (R61, R62, R67). -/
def encode (i : Instr) : Request :=
  match i with
  | .ubit2sbit seq => Request.withSeq i.opByte seq
  | .sbit2ubit seq => Request.withSeq i.opByte seq
  | .sbit2hbit seq => Request.withSeq i.opByte seq
  | .hbit2sbit seq => Request.withSeq i.opByte seq
  | .burstchk seq => Request.withSeq i.opByte seq
  | .toachk toa => Request.withToa i.opByte toa
  | .toaq toa => Request.withToa i.opByte toa
  | .toadq wHi wLo => Request.withReceived i.opByte wHi wLo

/-- What is left of a request when only the fields of a format are kept (R22, R62). -/
def Request.restrictTo (r : Request) : Format → Request
  | .fs => Request.withSeq r.op r.seqOperand
  | .fb => Request.withSeq r.op r.seqOperand
  | .ft => Request.withToa r.op r.toaOperand
  | .fw => Request.withReceived r.op r.wHi r.wLo

/-- The request whose `op` byte is bits 7..0 of `w` and whose other fields are zero or absent: the opcode
table gives a row the 8 bits of `op` and its operand ports no bits. DESIGN CHOICE, log 6 (safe). -/
def requestOfTableWord (w : Nat) : Request :=
  Request.blank (BitVec.ofNat 8 w)

/-- The operation the decoder reads from a table row's bits; no row is of another width than 8 (R66). DESIGN CHOICE, log 6 (safe). -/
def decodeTableWord (nbits w : Nat) : Option Instr :=
  if nbits = 8 then
    match decode (requestOfTableWord w) with
    | .ok i => some i
    | .error _ => none
  else none

end Sys2Proof
end

