-- ==== Sys2Proof/Machine/Operands.lean ====
section
/-!
DEFINITION. How the lanes of a sequence are read and written (spec/00_scope.md R12, spec/30_encoding.md R63),
the lane domains of the converter (spec/40_bit_converter.md R101 to R107) and the capacity check (R204).
-/

namespace Sys2Proof.Machine

/-- A lane read as `s8` (R12): two's complement, since bit 7 weighs -128 (D6). -/
def toS8 (lane : Lane) : Int :=
  if lane.getLsbD 7 then (lane.toNat : Int) - 256 else lane.toNat

/-- An `s8` written into a lane: `s mod 256` (R12). -/
def fromS8 (v : Int) : Lane :=
  BitVec.ofInt 8 v

/-- A lane read as `u8` (R12). -/
def toU8 (lane : Lane) : Int :=
  lane.toNat

/-- The erasure marker, the unsigned soft bit 255 (R9, R16). -/
def erasureMarker : Lane :=
  0xFF#8

/-- Every `u8` is an unsigned soft bit (R101). -/
def isUbit (_lane : Lane) : Bool :=
  true

/-- The domain [-127, 127] of signed soft bits: every lane but 0x80 (R103, R105). -/
def isSbit (lane : Lane) : Bool :=
  decide (-127 ≤ toS8 lane)

/-- The domain of hard bits: the lanes 0x00 and 0x01 (R107). -/
def isHbit (lane : Lane) : Bool :=
  lane == 0x00#8 || lane == 0x01#8

/-- The sequence has more lanes than the configuration admits (R204); never so when it is unbounded. -/
def overCapacity (cfg : Cfg) (n : Nat) : Bool :=
  match cfg.maxSeqLen with
  | .unbounded => false
  | .atMost cap => decide (cap < n)

end Sys2Proof.Machine
end

