-- ==== Sys2Proof/Machine/Ops.lean ====
section
/-!
DEFINITION. The named operations over the two ports (spec/10_state.md R22 to R24, R28), error responses, which
are TQB's only exceptions (spec/60_exceptions.md R200), and reset (spec/70_reset_and_hazards.md R230, R231).
-/

namespace Sys2Proof.Machine

/-- A response with this status and every data field `ABSENT` (R23): built fresh, nothing carried over. -/
def freshResponse (st : Status) : Response :=
  { status := st.code, valid := none, q := none, qHi := none, qLo := none, seqOut := none, toaOut := none }

/-- `raise E` (R15, R200): the operation ends at once with this response. It transfers no control, saves no
state and changes no mode (R211), and nothing is recorded beyond the code (R208); there is no return from it,
since the next request is served as if it had not occurred (R212). -/
def raise (st : Status) : Response :=
  freshResponse st

/-- `return` after `rsp.valid <- v` (R130, R151). -/
def okValid (v : Bool) : Response :=
  { freshResponse .ok with valid := some v }

/-- `return` after `rsp.seq_out <- l` (R100). -/
def okSeq (l : List Lane) : Response :=
  { freshResponse .ok with seqOut := some l }

/-- `return` after writing `q` and its two bytes in wire order: `q[15:8]`, then `q[7:0]` (R42, R153). -/
def okQ (q : Q8) : Response :=
  { freshResponse .ok with
    q := some q
    qHi := some (q.extractLsb' 8 8)
    qLo := some (q.extractLsb' 0 8) }

/-- `return` with `toa_out` `ABSENT`, as TOADQ writes it explicitly (R160). -/
def okNoToa : Response :=
  { freshResponse .ok with toaOut := none }

/-- The response is delivered on the output port, whole (R23, R47). -/
def State.respond (s : State) (r : Response) : State :=
  { s with response := some r }

/-- TQB takes the request from the input port, so that it is answered exactly once (R47). DESIGN CHOICE, log 4 (unsafe). -/
def State.takeRequest (s : State) : State :=
  { s with request := none }

/-- The host issues a request on the input port (R20, R47). R47 has the host issue one at a time and says nothing
of a request still on the port: the new request replaces it, and it gets no response. DESIGN CHOICE, log 4
(unsafe). -/
def State.issue (s : State) (r : Request) : State :=
  { s with request := some r }

/-- Reset applied to a running unit (R28, R230, R231): the configuration is kept, a request whose response
has not been delivered gets none, and no response exists before the next request. DESIGN CHOICE, log 12 (unsafe). -/
def State.applyReset (s : State) : State :=
  { s with request := none, response := none }

/-- No request is on the input port: nothing happens. DESIGN CHOICE, log 5 (unsafe). -/
def State.idle (s : State) : State :=
  s

end Sys2Proof.Machine
end

