-- ==== Sys2Proof/Machine/Burst.lean ====
section
/-!
DEFINITION. The burst-length validator (spec/41_burst_validator.md): BURSTCHK.
-/

namespace Sys2Proof.Machine

/-- A burst of `n` lanes has one of the two permitted lengths: exact equality (R130, R132). -/
def permittedLength (cfg : Cfg) (n : Nat) : Bool :=
  n == cfg.normalLen || n == cfg.edgeLen

/-- The answer of BURSTCHK (R130): presence and length only, no lane value is read (R131). -/
def burstAnswer (cfg : Cfg) (seq : Option (List Lane)) : Response :=
  match seq with
  | none => okValid false
  | some l =>
    if overCapacity cfg l.length then raise .capacity
    else okValid (permittedLength cfg l.length)

/-- BURSTCHK (R130). -/
def execBurstchk (seq : Option (List Lane)) (s : State) : Host.Outcome State Fault Refusal :=
  .next (s.respond (burstAnswer s.cfg seq))

end Sys2Proof.Machine
end

