-- ==== Sys2Proof/Machine/Converter.lean ====
section
/-!
DEFINITION. The bit-representation converter (spec/40_bit_converter.md): UBIT2SBIT, SBIT2UBIT, SBIT2HBIT,
HBIT2SBIT.
-/

namespace Sys2Proof.Machine

/-- The procedure all four share (R100), its checks in the order of R207: an absent sequence, the capacity,
the lanes; a failed check leaves no `seq_out`, not even in part. -/
def convert (cfg : Cfg) (dom : Lane → Bool) (f : Lane → Lane) (seq : Option (List Lane)) : Response :=
  match seq with
  | none => raise .domain
  | some l =>
    if overCapacity cfg l.length then raise .capacity
    else if l.all dom then okSeq (l.map f)
    else raise .domain

/-- The lane function of UBIT2SBIT (R101): the marker 255 saturates at -127, so it collides with 254 (R102). -/
def ubitToSbit (u : Lane) : Lane :=
  if u = erasureMarker then fromS8 (-127) else fromS8 (127 - toU8 u)

/-- The lane function of SBIT2UBIT (R103): `127 - s`, in [0, 254] on the domain, written as `u8` (R109). -/
def sbitToUbit (lane : Lane) : Lane :=
  BitVec.ofInt 8 (127 - toS8 lane)

/-- The lane function of SBIT2HBIT (R105): 1 for a negative soft bit, 0 otherwise. -/
def sbitToHbit (lane : Lane) : Lane :=
  if toS8 lane < 0 then 0x01#8 else 0x00#8

/-- The lane function of HBIT2SBIT (R107): -127 for hard bit 1, +127 for hard bit 0. -/
def hbitToSbit (h : Lane) : Lane :=
  if h = 0x01#8 then fromS8 (-127) else fromS8 127

/-- UBIT2SBIT (R101). -/
def execUbit2sbit (seq : Option (List Lane)) (s : State) : Host.Outcome State Fault Refusal :=
  .next (s.respond (convert s.cfg isUbit ubitToSbit seq))

/-- SBIT2UBIT (R103). -/
def execSbit2ubit (seq : Option (List Lane)) (s : State) : Host.Outcome State Fault Refusal :=
  .next (s.respond (convert s.cfg isSbit sbitToUbit seq))

/-- SBIT2HBIT (R105). -/
def execSbit2hbit (seq : Option (List Lane)) (s : State) : Host.Outcome State Fault Refusal :=
  .next (s.respond (convert s.cfg isSbit sbitToHbit seq))

/-- HBIT2SBIT (R107). -/
def execHbit2sbit (seq : Option (List Lane)) (s : State) : Host.Outcome State Fault Refusal :=
  .next (s.respond (convert s.cfg isHbit hbitToSbit seq))

end Sys2Proof.Machine
end

