-- ==== Sys2Proof/Machine/Binary64.lean ====
section
/-!
DEFINITION. The binary64 numbers of the ToA operand and the rounding of its arithmetic (spec/00_scope.md R13,
spec/30_encoding.md R63, spec/42_toa_quantizer.md R153 to R157, R162). Every finite binary64 value is a whole
multiple of 2^-1074, the smallest subnormal, so exact reals are held as integers counting that UNIT. DEDUCED, log 9 (safe).
-/

namespace Sys2Proof.Machine

/-- A decoded binary64 value (R13): NaN, an infinity, or `(-1)^neg * mag` units of 2^-1074. -/
inductive F64 where
  | nan
  | inf (neg : Bool)
  | finite (neg : Bool) (mag : Nat)
deriving DecidableEq, Repr

/-- The value of a binary64 pattern (R63), in units of 2^-1074: an exponent field `e ≥ 1` scales the
significand by `2^(e-1075) = 2^(e-1)` units. -/
def F64.ofBits (b : ToaBits) : F64 :=
  let neg := b.getLsbD 63
  let e := (b.extractLsb' 52 11).toNat
  let f := (b.extractLsb' 0 52).toNat
  if e = 0x7FF then
    if f = 0 then .inf neg else .nan
  else if e = 0 then .finite neg f
  else .finite neg ((2 ^ 52 + f) * 2 ^ (e - 1))

/-- `(-1)^neg * mag`. -/
def signed (neg : Bool) (mag : Nat) : Int :=
  if neg then -(mag : Int) else mag

/-- 1.0 in units. -/
def unitsPerOne : Nat := 2 ^ 1074

/-- 1/2 in units. -/
def unitsPerHalf : Nat := 2 ^ 1073

/-- `n / d` to the nearest integer, ties to the even one (R13). -/
def roundHalfEven (n d : Nat) : Nat :=
  let q := n / d
  let r := n % d
  if 2 * r < d then q
  else if d < 2 * r then q + 1
  else q + q % 2

/-- How many low bits of a magnitude of `m` units lie below a 53-bit significand. -/
def ulpShift (m : Nat) : Nat :=
  m.log2 - 52

/-- `fl` on a magnitude: round to a 53-bit significand, nearest, ties to even (R13). -/
def flMag (m : Nat) : Nat :=
  roundHalfEven m (2 ^ ulpShift m) * 2 ^ ulpShift m

/-- `fl(r)` of R13 for an exact real of `u` units. It never overflows where TOAQ uses it (R154). DEDUCED, log 9 (safe). -/
def fl (u : Int) : Int :=
  signed (decide (u < 0)) (flMag u.natAbs)

/-- The binary64 pattern nearest to `(-1)^neg * num / den`, ties to even: what a decimal literal of the text
syntax means (R67). A magnitude past the largest finite value gives infinity. -/
def nearestPattern (neg : Bool) (num den : Nat) : ToaBits :=
  let scaled := num * unitsPerOne
  let k := ulpShift (scaled / den)
  let mag := k * 2 ^ 52 + roundHalfEven scaled (den * 2 ^ k)
  BitVec.ofBool neg ++ BitVec.ofNat 63 (min mag (0x7FF * 2 ^ 52))

end Sys2Proof.Machine
end

