-- ==== Sys2Proof/Machine/Toa.lean ====
section
/-!
DEFINITION. The time-of-arrival quantizer (spec/42_toa_quantizer.md): TOACHK, TOAQ, TOADQ.
-/

namespace Sys2Proof.Machine

/-- The ToA of an operand that passes the range check of R151, in units of 2^-1074; `none` when it is absent,
NaN, infinite or outside [-10.0, 10.0]. Both bounds are inclusive (D10). -/
def acceptedToa (toa : Option ToaBits) : Option Int :=
  match toa with
  | none => none
  | some b =>
    match F64.ofBits b with
    | .nan => none
    | .inf _ => none
    | .finite neg mag =>
      let t := signed neg mag
      if -(10 * unitsPerOne : Int) ≤ t ∧ t ≤ 10 * unitsPerOne then some t else none

/-- `qi` of R153 for a ToA of `t` units: multiply by 256, add one half, each rounded to binary64, then
truncate toward zero. This literal arithmetic is the reading spec/90_conflicts.md C1 settles. -/
def quantize (t : Int) : Int :=
  let x := fl (t * 256)
  let y := fl (x + unitsPerHalf)
  y.tdiv unitsPerOne

/-- `qi mod 65536`, the 16-bit two's-complement image (R153, R156). -/
def q8OfInt (qi : Int) : Q8 :=
  BitVec.ofInt 16 qi

/-- The answer of TOACHK (R151). -/
def toachkAnswer (toa : Option ToaBits) : Response :=
  okValid (acceptedToa toa).isSome

/-- The answer of TOAQ (R153): VALIDATION for exactly the operands TOACHK rejects (R152). -/
def toaqAnswer (toa : Option ToaBits) : Response :=
  match acceptedToa toa with
  | none => raise .validation
  | some t => okQ (q8OfInt (quantize t))

/-- `{w_hi, w_lo}`, the received word in wire order (R42, R63). -/
def receivedWord (wHi wLo : Byte) : Q8 :=
  wHi ++ wLo

/-- The answer of TOADQ for a received word (R160): the word is discarded and no ToA is derived from it (R161). -/
def toadqAnswer (_w : Q8) : Response :=
  okNoToa

/-- TOACHK (R151). -/
def execToachk (toa : Option ToaBits) (s : State) : Host.Outcome State Fault Refusal :=
  .next (s.respond (toachkAnswer toa))

/-- TOAQ (R153). -/
def execToaq (toa : Option ToaBits) (s : State) : Host.Outcome State Fault Refusal :=
  .next (s.respond (toaqAnswer toa))

/-- TOADQ (R160). -/
def execToadq (wHi wLo : Byte) (s : State) : Host.Outcome State Fault Refusal :=
  .next (s.respond (toadqAnswer (receivedWord wHi wLo)))

end Sys2Proof.Machine
end

