-- ==== Sys2Proof/Machine/Dispatch.lean ====
section
/-! DEFINITION. The meaning of every operation, one arm per constructor of Instr (spec/30_encoding.md R61). -/

namespace Sys2Proof.Machine

def exec (i : Instr) (s : State) : Host.Outcome State Fault Refusal :=
  match i with
  | .ubit2sbit seq => Sys2Proof.Machine.execUbit2sbit seq s
  | .sbit2ubit seq => Sys2Proof.Machine.execSbit2ubit seq s
  | .sbit2hbit seq => Sys2Proof.Machine.execSbit2hbit seq s
  | .hbit2sbit seq => Sys2Proof.Machine.execHbit2sbit seq s
  | .burstchk seq => Sys2Proof.Machine.execBurstchk seq s
  | .toachk toa => Sys2Proof.Machine.execToachk toa s
  | .toaq toa => Sys2Proof.Machine.execToaq toa s
  | .toadq wHi wLo => Sys2Proof.Machine.execToadq wHi wLo s

end Sys2Proof.Machine
end

