-- ==== Sys2Proof/Machine/Serve.lean ====
section
/-!
DEFINITION. Serving one request (spec/20_memory.md R47): decode it and run the operation, or answer
ILLEGAL_OP (spec/60_exceptions.md R202).
-/

namespace Sys2Proof.Machine

/-- The response to a request with a reserved `op`; no operand field is read (R202). -/
def State.raiseIllegalOp (s : State) : State :=
  s.respond (raise .illegalOp)

/-- Serve one request completely, in the state in which it has been taken from the port (R47, R64). -/
def serveRequest (r : Request) (s : State) : Host.Outcome State Fault Refusal :=
  match decode r with
  | .ok i => exec i s
  | .error _ => .next s.raiseIllegalOp

end Sys2Proof.Machine
end

