-- ==== Sys2Proof/Machine/Step.lean ====
section
/-!
DEFINITION. One step of the unit: one request served as one atomic step (spec/70_reset_and_hazards.md R235), and
the placing of a request where the next step takes it.
-/

namespace Sys2Proof.Machine

/-- One step (R47, R235): the request on the input port is taken and served; with none there, the unit idles.
DESIGN CHOICE: log 5 (unsafe: idling), log 14 (unsafe: one step per request). -/
def step (s : State) : Host.Outcome State Fault Refusal :=
  match s.request with
  | none => .next s.idle
  | some r => serveRequest r s.takeRequest

/-- The host issues the request whose `op` byte is in `w`, its operand fields zero or absent. TQB fetches
nothing (R21, R51): the input port is where the next step takes its operation from. DESIGN CHOICE, log 6 (safe). -/
def State.withFetchWord (s : State) (_nbits w : Nat) : State :=
  s.issue (requestOfTableWord w)

end Sys2Proof.Machine
end

