-- ==== Sys2Proof/Machine/HostSide.lean ====
section
/-!
DEFINITION. The host's side of the interface, none of it TQB's own: issuing requests in order
(spec/10_state.md R21, spec/20_memory.md R47), reading a response (R24), the text form of a program and its
pseudo-operations (spec/30_encoding.md R67, R68), and carrying a ToA as bytes (R43, R44).
-/

namespace Sys2Proof.Machine

/-- Go on with what an outcome holds; a fault or a refusal ends the host's program. -/
def andThen {α β : Type} (o : Host.Outcome α Fault Refusal) (f : α → Host.Outcome β Fault Refusal) :
    Host.Outcome β Fault Refusal :=
  match o with
  | .next a => f a
  | .fault e => .fault e
  | .refused e => .refused e

/-- A value if there is one, else a refusal under this name. -/
def orRefuse {α : Type} (o : Option α) (why : Refusal) : Host.Outcome α Fault Refusal :=
  match o with
  | some a => .next a
  | none => .refused why

/-- Reading `valid` from a response (R24). -/
def readValid (r : Response) : Host.Outcome Bool Fault Refusal := orRefuse r.valid (.absentField .valid)

/-- Reading `q` from a response (R24). -/
def readQ (r : Response) : Host.Outcome Q8 Fault Refusal := orRefuse r.q (.absentField .q)

/-- Reading `q_hi` from a response (R24). -/
def readQHi (r : Response) : Host.Outcome Byte Fault Refusal := orRefuse r.qHi (.absentField .qHi)

/-- Reading `q_lo` from a response (R24). -/
def readQLo (r : Response) : Host.Outcome Byte Fault Refusal := orRefuse r.qLo (.absentField .qLo)

/-- Reading `seq_out` from a response (R24). -/
def readSeqOut (r : Response) : Host.Outcome (List Lane) Fault Refusal :=
  orRefuse r.seqOut (.absentField .seqOut)

/-- Reading `toa_out` from a response (R24): after any operation, TOADQ among them, a refusal (R161). -/
def readToaOut (r : Response) : Host.Outcome ToaBits Fault Refusal := orRefuse r.toaOut (.absentField .toaOut)

/-- Issue one request and take its response (R47). -/
def ask (r : Request) (s : State) : Host.Outcome (Response × State) Fault Refusal :=
  andThen (step (s.issue r)) fun t =>
    andThen (orRefuse t.response .noResponse) fun rsp => .next (rsp, t)

/-- `op_step` of R20, seen from outside: the response a unit of this configuration gives to a request. -/
def opStep (cfg : Cfg) (r : Request) : Host.Outcome Response Fault Refusal :=
  andThen (ask r { cfg := cfg, request := none, response := none }) fun a => .next a.1

/-- A program is a finite list of requests, request `k` issued after response `k - 1` (R21, R47): the
responses in order, and the unit afterwards. -/
def runProgram : List Request → State → Host.Outcome (List Response × State) Fault Refusal
  | [], s => .next ([], s)
  | r :: rs, s =>
    andThen (ask r s) fun a =>
      andThen (runProgram rs a.2) fun b => .next (a.1 :: b.1, b.2)

/-- The lane a text lane means, signed or unsigned alike: its value modulo 256 (R12, R67). -/
def laneOfText : LaneText → Lane
  | .decimal v => fromS8 v
  | .byte b => b

/-- The sequence operand a text operand means, given the responses so far (R67). -/
def resolveSeq (done : List Response) : SeqText → Host.Outcome (Option (List Lane)) Fault Refusal
  | .lanes l => .next (some (l.map laneOfText))
  | .absent => .next none
  | .zeros n => .next (some (List.replicate n 0x00#8))
  | .result k =>
    andThen (orRefuse done[k]? (.noSuchResponse k)) fun rsp =>
      andThen (readSeqOut rsp) fun l => .next (some l)

/-- The ToA operand a text operand means (R67). -/
def resolveToa : ToaText → Option ToaBits
  | .decimal neg digits scale => some (nearestPattern neg digits (10 ^ scale))
  | .pattern b => some b
  | .absent => none

/-- The request a line means (R67), given the responses so far. A line that fails `Line.wf` means none. -/
def assemble (done : List Response) (line : Line) : Host.Outcome Request Fault Refusal :=
  if line.wf then
    match line with
    | .ubit2sbit t => andThen (resolveSeq done t) fun o => .next (encode (.ubit2sbit o))
    | .sbit2ubit t => andThen (resolveSeq done t) fun o => .next (encode (.sbit2ubit o))
    | .sbit2hbit t => andThen (resolveSeq done t) fun o => .next (encode (.sbit2hbit o))
    | .hbit2sbit t => andThen (resolveSeq done t) fun o => .next (encode (.hbit2sbit o))
    | .burstchk t => andThen (resolveSeq done t) fun o => .next (encode (.burstchk o))
    | .toachk t => .next (encode (.toachk (resolveToa t)))
    | .toaq t => .next (encode (.toaq (resolveToa t)))
    | .toadq wHi wLo => .next (encode (.toadq wHi wLo))
    | .rawOp op => .next (Request.blank op)
  else .refused .illFormedLine

/-- Run the lines of a text program in order, after the responses `done` (R21, R67). -/
def runLines (done : List Response) : List Line → State → Host.Outcome (List Response × State) Fault Refusal
  | [], s => .next (done, s)
  | line :: rest, s =>
    andThen (assemble done line) fun r =>
      andThen (ask r s) fun a => runLines (done ++ [a.1]) rest a.2

/-- `UBITRT s` (R68): UBIT2SBIT, then SBIT2UBIT of the first response's `seq_out`. DEDUCED, log 11 (safe). -/
def ubitrt (seq : Option (List Lane)) (s : State) : Host.Outcome (List Response × State) Fault Refusal :=
  andThen (ask (encode (.ubit2sbit seq)) s) fun a =>
    andThen (readSeqOut a.1) fun l =>
      andThen (ask (encode (.sbit2ubit (some l))) a.2) fun b => .next ([a.1, b.1], b.2)

/-- `SBITRT s` (R68): SBIT2HBIT, then HBIT2SBIT of the first response's `seq_out`. DEDUCED, log 11 (safe). -/
def sbitrt (seq : Option (List Lane)) (s : State) : Host.Outcome (List Response × State) Fault Refusal :=
  andThen (ask (encode (.sbit2hbit seq)) s) fun a =>
    andThen (readSeqOut a.1) fun l =>
      andThen (ask (encode (.hbit2sbit (some l))) a.2) fun b => .next ([a.1, b.1], b.2)

/-- `TOAENC t` (R68): TOACHK, and TOAQ only if its response has `valid = 1`. The branch is the host's. -/
def toaenc (toa : Option ToaBits) (s : State) : Host.Outcome (List Response × State) Fault Refusal :=
  andThen (ask (encode (.toachk toa)) s) fun a =>
    andThen (readValid a.1) fun ok =>
      if ok then andThen (ask (encode (.toaq toa)) a.2) fun b => .next ([a.1, b.1], b.2)
      else .next ([a.1], a.2)

/-- A ToA pattern carried as bytes: bits 63..56 first (R44, D9). -/
def toaBytes (b : ToaBits) : List Byte :=
  [b.extractLsb' 56 8, b.extractLsb' 48 8, b.extractLsb' 40 8, b.extractLsb' 32 8,
   b.extractLsb' 24 8, b.extractLsb' 16 8, b.extractLsb' 8 8, b.extractLsb' 0 8]

/-- The ToA pattern eight bytes carry (R44); another number of bytes carries none. -/
def toaOfBytes : List Byte → Option ToaBits
  | [b7, b6, b5, b4, b3, b2, b1, b0] => some (b7 ++ b6 ++ b5 ++ b4 ++ b3 ++ b2 ++ b1 ++ b0)
  | _ => none

/-- Where the host places TOAQ's bytes in a downlink message: `q_hi` at offset 6, `q_lo` at offset 7 (R43). -/
def placeToa (msg : List Byte) (qHi qLo : Byte) : List Byte :=
  (msg.set 6 qHi).set 7 qLo

/-- The TOADQ operation a received downlink message gives rise to: its bytes at offsets 6 and 7 (R43). -/
def toadqOfMessage (msg : List Byte) : Option Instr :=
  match msg[6]?, msg[7]? with
  | some hi, some lo => some (.toadq hi lo)
  | _, _ => none

end Sys2Proof.Machine
end

