-- ==== Sys2Proof/Machine/Instances.lean ====
section
/-!
DEFINITION. Several TQB instances side by side (spec/20_memory.md R49, spec/60_exceptions.md R217): they share no
state, so a platform is a list of states and any instance may take the next step.
-/

namespace Sys2Proof.Machine

/-- Instance `k` of the platform takes one step; the others are left alone (R49). An instance that does not
exist takes none. DESIGN CHOICE, log 13 (safe). -/
def stepInstance (k : Nat) (units : List State) : Host.Outcome (List State) Fault Refusal :=
  match units[k]? with
  | none => .next units
  | some s =>
    match step s with
    | .next t => .next (units.set k t)
    | .fault e => .fault e
    | .refused e => .refused e

end Sys2Proof.Machine
end

