-- ==== Sys2Proof/Safety.lean ====
section
/-!
DEFINITION. The terms statements about TQB use: the exact value of a binary64 operand (spec/00_scope.md R13), the
fields an operation reads (spec/30_encoding.md R62), and what holds of every response and every state.
-/

namespace Sys2Proof.Safety

open Sys2Proof.Machine

/-- The pattern is a finite binary64 number: its biased exponent is not 0x7FF (R63). -/
abbrev toaFinite (toa : ToaBits) : Prop :=
  (toa.extractLsb' 52 11).toNat ≠ 0x7FF

/-- `real(f)` of R13 by the formula of R63, as an exact rational: `(-1)^s * f * 2^-1074` when `e = 0`, and
`(-1)^s * (2^52 + f) * 2^(e-1075)` otherwise. -/
def toaReal (toa : ToaBits) : ℚ :=
  let s : ℚ := if toa.getLsbD 63 then -1 else 1
  let e := (toa.extractLsb' 52 11).toNat
  let f : ℚ := (toa.extractLsb' 0 52).toNat
  if e = 0 then s * f * (2 : ℚ) ^ (-1074 : Int)
  else s * (2 ^ 52 + f) * (2 : ℚ) ^ ((e : Int) - 1075)

/-- The operand passes the range check of R151: a number, not NaN and no infinity, in [-10.0, 10.0]. -/
abbrev toaInRange (toa : ToaBits) : Prop :=
  toaFinite toa ∧ -10 ≤ toaReal toa ∧ toaReal toa ≤ 10

/-- The ToA a Q8 word stands for: `toS16(w) / 256` symbol periods (R150). No operation computes it (R161). -/
def q8Real (w : Q8) : ℚ :=
  (w.toInt : ℚ) / 256

/-- `t*` of R157, the one operand at which binary64 rounding shows: `2^-9 - 2^-62`. -/
def tStar : ToaBits :=
  0x3F5FFFFFFFFFFFFF#64

/-- The opposite ToA: the sign bit, bit 63, turned over (R63). -/
def toaNeg (toa : ToaBits) : ToaBits :=
  toa ^^^ 0x8000000000000000#64

/-- A response with this status code and every data field `ABSENT` (R200). -/
def dataless (code : Byte) : Response :=
  { status := code, valid := none, q := none, qHi := none, qLo := none, seqOut := none, toaOut := none }

/-- The state in which this response has been delivered and nothing else has changed. -/
def delivered (s : State) (r : Response) : State :=
  { cfg := s.cfg, request := s.request, response := some r }

/-- The Q8 word TOAQ gives for an operand, if it gives one. -/
def toaqWord (s : State) (toa : ToaBits) : Option Q8 :=
  match exec (.toaq (some toa)) s with
  | .next t => t.response.bind (fun r => r.q)
  | .fault _ => none
  | .refused _ => none

/-- The two requests have the same `op` and agree on every field its format reads (R61, R62); the lanes of an
absent sequence and the pattern of an absent ToA are not read. -/
def sameRead (a b : Request) : Prop :=
  a.op = b.op ∧
  (a.op ∈ [0x10#8, 0x11#8, 0x12#8, 0x13#8, 0x20#8] →
    a.seqPresent = b.seqPresent ∧ (a.seqPresent = true → a.seq = b.seq)) ∧
  (a.op ∈ [0x30#8, 0x31#8] →
    a.toaPresent = b.toaPresent ∧ (a.toaPresent = true → a.toa = b.toa)) ∧
  (a.op = 0x32#8 → a.wHi = b.wHi ∧ a.wLo = b.wLo)

/-- The eight assigned `op` values (R61). -/
def assignedOps : List Byte :=
  [0x10#8, 0x11#8, 0x12#8, 0x13#8, 0x20#8, 0x30#8, 0x31#8, 0x32#8]

/-- What every response is, under a configuration: a status of R201; after an error no data field (R200); no
ToA ever (R23); the two bytes exactly those of the word (R42), which lies in [-2559, 2560] (R156); no sequence
beyond the capacity (R204). -/
def goodResponse (cfg : Cfg) (r : Response) : Prop :=
  r.status ≤ 0x04#8 ∧
  (r.status ≠ 0x00#8 → r.valid = none ∧ r.q = none ∧ r.seqOut = none) ∧
  r.toaOut = none ∧
  r.qHi = r.q.map (fun w => w.extractLsb' 8 8) ∧
  r.qLo = r.q.map (fun w => w.extractLsb' 0 8) ∧
  (∀ w, r.q = some w → -2559 ≤ w.toInt ∧ w.toInt ≤ 2560) ∧
  (∀ l cap, r.seqOut = some l → cfg.maxSeqLen = .atMost cap → l.length ≤ cap)

/-- The invariant of the machine: the configuration is one R8 permits, and the response on the output port, if
there is one, is a good one. -/
def Inv (s : State) : Prop :=
  s.cfg.wf = true ∧ ∀ r, s.response = some r → goodResponse s.cfg r

/-- A safe step goes on: it is neither a fault nor a refusal (R200, R212). -/
def goesOn (s : State) : Prop :=
  ∃ t, step s = .next t

end Sys2Proof.Safety
end

