-- ==== Sys2Proof/Certificates/Slice0/Obligations.lean ====
section
/-!
DEFINITION. The statements about TQB for the provers. Each docstring names the rule of spec/ it formalises; a
statement that rests on a choice of the model says so and names the log entry.
-/

open Sys2Proof Sys2Proof.Machine Sys2Proof.Safety

/-! ## Encoding and decoding -/

/-- R61, R64: six written-out `op` bytes, one or two of each family, decode to their operation with its operands. -/
def Obligations.DecodeReadsWrittenOpBytes : Prop :=
  decode { op := 0b00010000#8, seqPresent := true, seq := [0x7F#8, 0xFF#8], toaPresent := false,
           toa := 0#64, wHi := 0#8, wLo := 0#8 } = .ok (.ubit2sbit (some [0x7F#8, 0xFF#8])) ∧
  decode { op := 0b00010011#8, seqPresent := true, seq := [0x01#8], toaPresent := true,
           toa := 5#64, wHi := 1#8, wLo := 2#8 } = .ok (.hbit2sbit (some [0x01#8])) ∧
  decode { op := 0b00100000#8, seqPresent := false, seq := [0x01#8], toaPresent := false,
           toa := 0#64, wHi := 0#8, wLo := 0#8 } = .ok (.burstchk none) ∧
  decode { op := 0b00110000#8, seqPresent := false, seq := [], toaPresent := true,
           toa := 0x3FF0000000000000#64, wHi := 0#8, wLo := 0#8 } = .ok (.toachk (some 0x3FF0000000000000#64)) ∧
  decode { op := 0b00110001#8, seqPresent := false, seq := [], toaPresent := false,
           toa := 0x3FF0000000000000#64, wHi := 0#8, wLo := 0#8 } = .ok (.toaq none) ∧
  decode { op := 0b00110010#8, seqPresent := false, seq := [], toaPresent := false,
           toa := 0#64, wHi := 0x0A#8, wLo := 0xF6#8 } = .ok (.toadq 0x0A#8 0xF6#8)

/-- R65, R202: every reserved `op` value, whatever the other fields hold, is answered ILLEGAL_OP. The request is
taken from the port, so it is answered once (R47): that the port is empty afterwards is log 4. -/
def Obligations.ReservedOpIsAnsweredIllegalOp : Prop :=
  ∀ (s : State) (r : Request), s.request = some r →
    (r.op ≤ 0x0F#8 ∨ (0x14#8 ≤ r.op ∧ r.op ≤ 0x1F#8) ∨ (0x21#8 ≤ r.op ∧ r.op ≤ 0x2F#8) ∨
      (0x33#8 ≤ r.op ∧ r.op ≤ 0x3F#8) ∨ 0x40#8 ≤ r.op) →
    ∃ t, step s = .next t ∧ t.cfg = s.cfg ∧ t.request = none ∧ t.response = some (dataless 0x03#8)

/-- R60 to R64: decode and encode agree on every operation with every operand: an encoded operation decodes to
itself, and a request decodes to an operation exactly when, its unread fields removed, it is that operation's
encoding. That the data of an operand whose presence bit is 0 counts as unread is log 7 (DEDUCED). -/
def Obligations.DecodeAndEncodeAgree : Prop :=
  (∀ i : Instr, decode (encode i) = .ok i) ∧
  ∀ (r : Request) (i : Instr), decode r = .ok i ↔ r.restrictTo i.format = encode i

/-- R22, R62: two requests that agree on the fields their operation reads are answered alike (that the
data of an absent operand is not read is log 7). In a state with a request already on the port, that the issued
one replaces it is the model's choice (log 4). -/
def Obligations.UnreadFieldsAreIgnored : Prop :=
  ∀ (s : State) (a b : Request), sameRead a b → step (s.issue a) = step (s.issue b)

/-! ## One step -/

/-- R47, R64: when the request on the port decodes to an operation, the step takes the request from the port and
is `exec` of that operation (taking it is log 4). -/
def Obligations.StepRunsTheDecodedOperation : Prop :=
  ∀ (s : State) (r : Request) (i : Instr), s.request = some r → decode r = .ok i →
    step s = exec i { cfg := s.cfg, request := none, response := s.response }

/-- The model's choice (log 5): with no request on the port a step changes nothing. -/
def Obligations.StepIdlesWithoutARequest : Prop :=
  ∀ s : State, s.request = none → step s = .next s

/-- R200, R211, R212, R214: a step never ends in a fault or a refusal (errors as next states: log 8;
a next state when no request is on the port: the model's choice, log 5). -/
def Obligations.StepAlwaysGoesOn : Prop :=
  ∀ s : State, goesOn s

/-- The frame of all eight operations (R23, R25, R47): only the output port changes, and what it held before
has no part in what it holds after. -/
def Obligations.OperationsChangeOnlyTheResponse : Prop :=
  ∀ (i : Instr) (s : State), ∃ r : Response, exec i s = .next (delivered s r) ∧
    ∀ old : Option Response, ∃ t, exec i { s with response := old } = .next t ∧
      t.cfg = s.cfg ∧ t.request = s.request ∧ t.response = some r

/-- R48: the response to a request is a function of the request and the configuration, so two units of one
configuration answer it alike, whatever happened in either before, and so does one unit asked twice. Where a
request is already on a port, that the issued one replaces it is the model's choice (log 4). -/
def Obligations.ResponseDependsOnRequestAndConfiguration : Prop :=
  ∀ (s t : State) (r : Request), s.cfg = t.cfg → ∃ s' t' s'' rsp,
    step (s.issue r) = .next s' ∧ s'.response = some rsp ∧
    step (t.issue r) = .next t' ∧ t'.response = some rsp ∧
    step (s'.issue r) = .next s'' ∧ s''.response = some rsp

/-- R25: no step and no reset changes the configuration. -/
def Obligations.ConfigurationIsReadOnly : Prop :=
  ∀ s : State, s.applyReset.cfg = s.cfg ∧ ∀ t, step s = .next t → t.cfg = s.cfg

/-- R200: an error response has its status and no data. -/
def Obligations.ErrorResponsesCarryNoData : Prop :=
  ∀ (s : State) (r : Request), s.request = some r → ∃ t rsp,
    step s = .next t ∧ t.cfg = s.cfg ∧ t.response = some rsp ∧
    rsp.status ≤ 0x04#8 ∧ (rsp.status ≠ 0x00#8 → rsp = dataless rsp.status)

/-- R207, with R202 to R205: the status of a response is that of the first check that applies, and OK when none
does. -/
def Obligations.StatusIsTheFirstApplicableError : Prop :=
  ∀ (s : State) (r : Request), s.request = some r → ∃ t rsp,
    step s = .next t ∧ t.cfg = s.cfg ∧ t.response = some rsp ∧
    rsp.status =
      if r.op ∉ assignedOps then 0x03#8
      else if r.op ∈ [0x10#8, 0x11#8, 0x12#8, 0x13#8] ∧ r.seqPresent = false then 0x02#8
      else if r.op ∈ [0x10#8, 0x11#8, 0x12#8, 0x13#8, 0x20#8] ∧ r.seqPresent = true ∧
          s.cfg.maxSeqLen.admits r.seq.length = false then 0x04#8
      else if r.op ∈ [0x11#8, 0x12#8] ∧ 0x80#8 ∈ r.seq then 0x02#8
      else if r.op = 0x13#8 ∧ ∃ lane ∈ r.seq, lane ≠ 0x00#8 ∧ lane ≠ 0x01#8 then 0x02#8
      else if r.op = 0x31#8 ∧ ¬(r.toaPresent = true ∧ toaInRange r.toa) then 0x01#8
      else 0x00#8

/-- The invariant (R8, R23, R42, R156, R200, R201, R204) is kept by every step from every state that has it. -/
def Obligations.EveryStepKeepsTheInvariant : Prop :=
  ∀ s t : State, Inv s → step s = .next t → Inv t

/-- The invariant holds right after reset, whatever the instantiation values (the form of P_MAX_SEQ_LEN is
log 2). -/
def Obligations.ResetHasTheInvariant : Prop :=
  Inv State.reset

/-! ## Reset, order of service, several instances -/

/-- R28, R230: after reset the configuration is the instantiation's, no request is on the port and no response
exists; the first request after a reset is served as any later one. The empty ports are the model's
choice (log 12); so is, where a request is already on the port, that the issued one replaces it (log 4). -/
def Obligations.ResetLeavesConfigurationAndNoResponse : Prop :=
  State.reset = { cfg := Config.cfg, request := none, response := none } ∧
  ∀ s : State, s.applyReset = { cfg := s.cfg, request := none, response := none } ∧
    ∀ r : Request, step (s.applyReset.issue r) = step (s.issue r)

/-- R231: a request on the port when reset is applied gets no response from the steps that follow, and issuing it
again gives what the first issue would have given. Idling and the cleared ports are the model's choice (logs 5
and 12). -/
def Obligations.RequestInFlightAtResetIsLost : Prop :=
  ∀ (s : State) (r : Request), s.request = some r →
    (∀ k, Host.Core.run Sys2Proof.core k s.applyReset = .next s.applyReset ∧ s.applyReset.response = none) ∧
    step (s.applyReset.issue r) = step s

/-- R47, R212: requests issued one after another get one response each, in order, and each is the response a
unit of the same configuration gives to that request alone: no error disturbs a later request.
Where a request is already on the port at the start, that the first one issued replaces it is the model's choice
(log 4). -/
def Obligations.RequestsAreAnsweredInOrder : Prop :=
  ∀ (rs : List Request) (s : State), ∃ out t, runProgram rs s = .next (out, t) ∧
    out.length = rs.length ∧ t.cfg = s.cfg ∧
    ∀ (k : Nat) (r : Request) (rsp : Response), rs[k]? = some r → out[k]? = some rsp →
      opStep s.cfg r = .next rsp

/-- R49, R217: two instances may step in either order, and the platform, a list of states (log 13), ends the
same; an instance that does not step is left alone. -/
def Obligations.InstancesDoNotInterfere : Prop :=
  ∀ (units : List State) (j k : Nat), j ≠ k →
    andThen (stepInstance j units) (stepInstance k) = andThen (stepInstance k units) (stepInstance j) ∧
    ∀ after, stepInstance j units = .next after → after[k]? = units[k]?

/-! ## Bit-representation converter -/

/-- R101: UBIT2SBIT whole: an absent sequence, one over the capacity, and the lane function on every other. -/
def Obligations.Ubit2sbitConvertsEveryLane : Prop :=
  ∀ s : State,
    (∀ o, (encode (.ubit2sbit o)).op = 0x10#8) ∧
    exec (.ubit2sbit none) s = .next (delivered s (dataless 0x02#8)) ∧
    ∀ seq : List Lane,
      if s.cfg.maxSeqLen.admits seq.length = false then
        exec (.ubit2sbit (some seq)) s = .next (delivered s (dataless 0x04#8))
      else ∃ out : List Lane,
        exec (.ubit2sbit (some seq)) s =
          .next (delivered s { dataless 0x00#8 with seqOut := some out }) ∧
        out.length = seq.length ∧
        ∀ (n : Nat) (u v : Lane), seq[n]? = some u → out[n]? = some v →
          v.toInt = if u.toNat = 255 then -127 else 127 - (u.toNat : Int)

/-- R102: 254 and the erasure marker 255 both become -127, and no lane ever becomes -128. -/
def Obligations.ErasureMarkerCollidesWith254 : Prop :=
  ∀ s : State, s.cfg.maxSeqLen.admits 1 = true →
    exec (.ubit2sbit (some [0xFF#8])) s =
      .next (delivered s { dataless 0x00#8 with seqOut := some [0x81#8] }) ∧
    exec (.ubit2sbit (some [0xFE#8])) s =
      .next (delivered s { dataless 0x00#8 with seqOut := some [0x81#8] }) ∧
    ∀ (u : Lane) (t : State) (rsp : Response), exec (.ubit2sbit (some [u])) s = .next t →
      t.response = some rsp → rsp.seqOut ≠ some [0x80#8]

/-- R103: SBIT2UBIT whole: absent, over the capacity, a lane 0x80, and the lane function on every other. -/
def Obligations.Sbit2ubitConvertsEveryLane : Prop :=
  ∀ s : State,
    (∀ o, (encode (.sbit2ubit o)).op = 0x11#8) ∧
    exec (.sbit2ubit none) s = .next (delivered s (dataless 0x02#8)) ∧
    ∀ seq : List Lane,
      if s.cfg.maxSeqLen.admits seq.length = false then
        exec (.sbit2ubit (some seq)) s = .next (delivered s (dataless 0x04#8))
      else if 0x80#8 ∈ seq then
        exec (.sbit2ubit (some seq)) s = .next (delivered s (dataless 0x02#8))
      else ∃ out : List Lane,
        exec (.sbit2ubit (some seq)) s =
          .next (delivered s { dataless 0x00#8 with seqOut := some out }) ∧
        out.length = seq.length ∧
        ∀ (n : Nat) (b u : Lane), seq[n]? = some b → out[n]? = some u →
          (u.toNat : Int) = 127 - b.toInt ∧ u ≠ 0xFF#8

/-- R105: SBIT2HBIT whole: absent, over the capacity, a lane 0x80, and the lane function on every other. -/
def Obligations.Sbit2hbitConvertsEveryLane : Prop :=
  ∀ s : State,
    (∀ o, (encode (.sbit2hbit o)).op = 0x12#8) ∧
    exec (.sbit2hbit none) s = .next (delivered s (dataless 0x02#8)) ∧
    ∀ seq : List Lane,
      if s.cfg.maxSeqLen.admits seq.length = false then
        exec (.sbit2hbit (some seq)) s = .next (delivered s (dataless 0x04#8))
      else if 0x80#8 ∈ seq then
        exec (.sbit2hbit (some seq)) s = .next (delivered s (dataless 0x02#8))
      else ∃ out : List Lane,
        exec (.sbit2hbit (some seq)) s =
          .next (delivered s { dataless 0x00#8 with seqOut := some out }) ∧
        out.length = seq.length ∧
        ∀ (n : Nat) (b h : Lane), seq[n]? = some b → out[n]? = some h →
          h = if b.toInt < 0 then 0x01#8 else 0x00#8

/-- R107: HBIT2SBIT whole: absent, over the capacity, a lane that is no hard bit, and the lane function. -/
def Obligations.Hbit2sbitConvertsEveryLane : Prop :=
  ∀ s : State,
    (∀ o, (encode (.hbit2sbit o)).op = 0x13#8) ∧
    exec (.hbit2sbit none) s = .next (delivered s (dataless 0x02#8)) ∧
    ∀ seq : List Lane,
      if s.cfg.maxSeqLen.admits seq.length = false then
        exec (.hbit2sbit (some seq)) s = .next (delivered s (dataless 0x04#8))
      else if ∃ lane ∈ seq, 2 ≤ lane.toNat then
        exec (.hbit2sbit (some seq)) s = .next (delivered s (dataless 0x02#8))
      else ∃ out : List Lane,
        exec (.hbit2sbit (some seq)) s =
          .next (delivered s { dataless 0x00#8 with seqOut := some out }) ∧
        out.length = seq.length ∧
        ∀ (n : Nat) (h b : Lane), seq[n]? = some h → out[n]? = some b →
          b.toInt = if h.toNat = 1 then -127 else 127

/-- R104: unsigned to signed and back is the identity but for the erasure marker, which comes back as 254; signed
to unsigned and back is the identity on [-127, 127]. -/
def Obligations.SoftBitRoundTrips : Prop :=
  ∀ (s : State) (seq : List Lane), s.cfg.maxSeqLen.admits seq.length = true →
    (∃ mid back : List Lane,
      exec (.ubit2sbit (some seq)) s = .next (delivered s { dataless 0x00#8 with seqOut := some mid }) ∧
      exec (.sbit2ubit (some mid)) s = .next (delivered s { dataless 0x00#8 with seqOut := some back }) ∧
      back = seq.map (fun u => if u = 0xFF#8 then 0xFE#8 else u)) ∧
    (0x80#8 ∉ seq → ∃ mid : List Lane,
      exec (.sbit2ubit (some seq)) s = .next (delivered s { dataless 0x00#8 with seqOut := some mid }) ∧
      exec (.ubit2sbit (some mid)) s = .next (delivered s { dataless 0x00#8 with seqOut := some seq }))

/-- R108: a signed soft bit decided and read back is -127 or +127 by its sign; a hard bit comes back itself. -/
def Obligations.HardBitRoundTrips : Prop :=
  ∀ (s : State) (seq : List Lane), s.cfg.maxSeqLen.admits seq.length = true →
    (0x80#8 ∉ seq → ∃ mid : List Lane,
      exec (.sbit2hbit (some seq)) s = .next (delivered s { dataless 0x00#8 with seqOut := some mid }) ∧
      exec (.hbit2sbit (some mid)) s = .next (delivered s { dataless 0x00#8 with
        seqOut := some (seq.map (fun b => if b.toInt < 0 then 0x81#8 else 0x7F#8)) })) ∧
    ((∀ lane ∈ seq, lane = 0x00#8 ∨ lane = 0x01#8) → ∃ mid : List Lane,
      exec (.hbit2sbit (some seq)) s = .next (delivered s { dataless 0x00#8 with seqOut := some mid }) ∧
      exec (.sbit2hbit (some mid)) s = .next (delivered s { dataless 0x00#8 with seqOut := some seq }))

/-- R106: the lanes -127 to 127 in order become 127 ones and then 128 zeros. -/
def Obligations.AllSoftBitsDecideTo127OnesAnd128Zeros : Prop :=
  ∀ s : State, s.cfg.maxSeqLen.admits 255 = true →
    exec (.sbit2hbit (some ((List.range 255).map (fun n => BitVec.ofInt 8 ((n : Int) - 127))))) s =
      .next (delivered s { dataless 0x00#8 with
        seqOut := some (List.replicate 127 0x01#8 ++ List.replicate 128 0x00#8) })

/-! ## Burst-length validator -/

/-- R130, R132: BURSTCHK whole: an absent burst is invalid, one over the capacity is an error, and any other is
valid exactly when its length equals one of the two permitted lengths. -/
def Obligations.BurstchkChecksExactLength : Prop :=
  ∀ s : State,
    (∀ o, (encode (.burstchk o)).op = 0x20#8) ∧
    exec (.burstchk none) s = .next (delivered s { dataless 0x00#8 with valid := some false }) ∧
    ∀ seq : List Lane,
      if s.cfg.maxSeqLen.admits seq.length = false then
        exec (.burstchk (some seq)) s = .next (delivered s (dataless 0x04#8))
      else ∃ ok : Bool,
        exec (.burstchk (some seq)) s = .next (delivered s { dataless 0x00#8 with valid := some ok }) ∧
        (ok = true ↔ seq.length = s.cfg.normalLen ∨ seq.length = s.cfg.edgeLen)

/-- R131: two bursts of one length get the same answer, whatever their lanes. -/
def Obligations.BurstchkReadsNoLane : Prop :=
  ∀ (s : State) (a b : List Lane), a.length = b.length →
    exec (.burstchk (some a)) s = exec (.burstchk (some b)) s

/-- R8: under a permitted configuration every burst of a permitted length fits and is found valid. -/
def Obligations.EveryValidBurstFits : Prop :=
  ∀ (s : State) (seq : List Lane), s.cfg.wf = true →
    (seq.length = s.cfg.normalLen ∨ seq.length = s.cfg.edgeLen) →
    exec (.burstchk (some seq)) s = .next (delivered s { dataless 0x00#8 with valid := some true })

/-! ## Time-of-arrival quantizer -/

/-- R13: the rounding of the model is to nearest, ties to an even significand, among the numbers with a 53-bit
significand that are whole multiples of 2^-1074. Counting in units of 2^-1074 and an exponent without an upper
bound, so without overflow to infinity, are the model's (log 9, DEDUCED). -/
def Obligations.RoundingIsToNearestEven : Prop :=
  ∀ u : Int,
    (∃ m k : Nat, m < 2 ^ 53 ∧ (fl u).natAbs = m * 2 ^ k) ∧
    ∀ v : Int, (∃ m k : Nat, m < 2 ^ 53 ∧ v.natAbs = m * 2 ^ k) →
      |fl u - u| ≤ |v - u| ∧
      (v ≠ fl u → |fl u - u| = |v - u| →
        ∃ m k : Nat, m < 2 ^ 53 ∧ (k = 0 ∨ 2 ^ 52 ≤ m) ∧ m % 2 = 0 ∧ (fl u).natAbs = m * 2 ^ k)

/-- R151: TOACHK whole: absent is invalid; a pattern is valid exactly when it is a number in [-10.0, 10.0]. -/
def Obligations.ToachkChecksTheRange : Prop :=
  ∀ s : State,
    (∀ o, (encode (.toachk o)).op = 0x30#8) ∧
    exec (.toachk none) s = .next (delivered s { dataless 0x00#8 with valid := some false }) ∧
    ∀ toa : ToaBits, ∃ ok : Bool,
      exec (.toachk (some toa)) s = .next (delivered s { dataless 0x00#8 with valid := some ok }) ∧
      (ok = true ↔ toaInRange toa)

/-- R152, R203: TOAQ answers VALIDATION for exactly the operands TOACHK rejects, and no word with it. -/
def Obligations.ToaqRejectsWhatToachkRejects : Prop :=
  ∀ (s : State) (toa : Option ToaBits),
    exec (.toachk toa) s = .next (delivered s { dataless 0x00#8 with valid := some false }) ↔
    exec (.toaq toa) s = .next (delivered s (dataless 0x01#8))

/-- R157: TOAQ on every accepted operand: status OK, the word of the exact characterisation, and its two bytes in
wire order. -/
def Obligations.ToaqMatchesTheExactCharacterisation : Prop :=
  ∀ (s : State) (toa : ToaBits), toaInRange toa → ∃ w : Q8,
    exec (.toaq (some toa)) s = .next (delivered s { dataless 0x00#8 with
      q := some w, qHi := some (w.extractLsb' 8 8), qLo := some (w.extractLsb' 0 8) }) ∧
    w.toInt =
      if toa = tStar then 1
      else if 0 ≤ 256 * toaReal toa + 1 / 2 then ⌊256 * toaReal toa + 1 / 2⌋
      else ⌈256 * toaReal toa + 1 / 2⌉

/-- R154: the product by 256 is exact for every operand that passes the range check. -/
def Obligations.ToaqProductIsExact : Prop :=
  ∀ (toa : Option ToaBits) (t : Int), acceptedToa toa = some t → fl (t * 256) = t * 256

/-- R156: every word TOAQ gives lies in [-2559, 2560], the extremes are reached at -10.0 and +10.0, and the first
byte is its high byte. -/
def Obligations.ToaqWordStaysInRange : Prop :=
  ∀ s : State,
    (∀ (toa : ToaBits) (w : Q8), toaqWord s toa = some w → -2559 ≤ w.toInt ∧ w.toInt ≤ 2560) ∧
    exec (.toaq (some 0xC024000000000000#64)) s = .next (delivered s { dataless 0x00#8 with
      q := some 0xF601#16, qHi := some 0xF6#8, qLo := some 0x01#8 }) ∧
    exec (.toaq (some 0x4024000000000000#64)) s = .next (delivered s { dataless 0x00#8 with
      q := some 0x0A00#16, qHi := some 0x0A#8, qLo := some 0x00#8 })

/-- R158: the error of the word and its asymmetry: to nearest from -1/512 up (but at `t*`), between one half and
one and a half LSB above below it, the mirror law from 1/512 up, and 0 on both sides of 0 (but at `t*`). -/
def Obligations.ToaqErrorAndMirrorLaw : Prop :=
  ∀ (s : State) (toa : ToaBits), toaInRange toa →
    ∃ w w' : Q8, toaqWord s toa = some w ∧ toaqWord s (toaNeg toa) = some w' ∧
      (-1 / 512 ≤ toaReal toa → toa ≠ tStar → |(w.toInt : ℚ) - 256 * toaReal toa| ≤ 1 / 2) ∧
      (toaReal toa < -1 / 512 →
        1 / 2 ≤ (w.toInt : ℚ) - 256 * toaReal toa ∧ (w.toInt : ℚ) - 256 * toaReal toa < 3 / 2) ∧
      (1 / 512 ≤ toaReal toa → w'.toInt = 1 - w.toInt) ∧
      (0 < toaReal toa → toaReal toa < 1 / 512 → w'.toInt = 0 ∧ w.toInt = if toa = tStar then 1 else 0)

/-- R150 with R158: the ToA a word of TOAQ stands for is less than one and a half LSB from the operand. -/
def Obligations.ToaqWordStandsForANearbyToa : Prop :=
  ∀ (s : State) (toa : ToaBits) (w : Q8), toaqWord s toa = some w →
    |q8Real w - toaReal toa| < 3 / 2 * (1 / 256)

/-- R159: VALIDATION from TOAQ goes with `valid = 0` from TOACHK; with `valid = 1` go OK and a word. -/
def Obligations.ToaqSucceedsExactlyWhenToachkAccepts : Prop :=
  ∀ (s : State) (toa : Option ToaBits), ∃ chk enc : Response,
    exec (.toachk toa) s = .next (delivered s chk) ∧ exec (.toaq toa) s = .next (delivered s enc) ∧
    (enc.status = 0x01#8 ↔ chk.valid = some false) ∧
    (chk.valid = some true → enc.status = 0x00#8 ∧ enc.q.isSome = true)

/-- R160: TOADQ whole: every received word is accepted and nothing is derived from it. -/
def Obligations.ToadqYieldsNoToa : Prop :=
  ∀ (s : State) (wHi wLo : Byte),
    (encode (.toadq wHi wLo)).op = 0x32#8 ∧
    exec (.toadq wHi wLo) s = .next (delivered s (dataless 0x00#8))

/-- R161: no operation makes `toa_out` present, and reading it is refused (R24); the bytes TOAQ sends for an
accepted ToA, read back by TOADQ, are the word and give no ToA. -/
def Obligations.NoOperationDecodesAToa : Prop :=
  (∀ (i : Instr) (s t : State) (rsp : Response), exec i s = .next t → t.response = some rsp →
    rsp.toaOut = none ∧ readToaOut rsp = .refused (.absentField .toaOut)) ∧
  ∀ (s : State) (toa : ToaBits), toaInRange toa → ∃ (sent back : Response) (hi lo : Byte) (w : Q8),
    exec (.toaq (some toa)) s = .next (delivered s sent) ∧
    sent.q = some w ∧ sent.qHi = some hi ∧ sent.qLo = some lo ∧ receivedWord hi lo = w ∧
    exec (.toadq hi lo) s = .next (delivered s back) ∧ back.status = 0x00#8 ∧ back.toaOut = none

/-! ## The host's side -/

/-- R24: reading any of the six data fields of a response gives its value, and is refused when the field is ABSENT. -/
def Obligations.ReadingAnAbsentFieldIsRefused : Prop :=
  ∀ rsp : Response,
    (rsp.valid = none → readValid rsp = .refused (.absentField .valid)) ∧
    (∀ v, rsp.valid = some v → readValid rsp = .next v) ∧
    (rsp.q = none → readQ rsp = .refused (.absentField .q)) ∧
    (∀ w, rsp.q = some w → readQ rsp = .next w) ∧
    (rsp.qHi = none → readQHi rsp = .refused (.absentField .qHi)) ∧
    (∀ b, rsp.qHi = some b → readQHi rsp = .next b) ∧
    (rsp.qLo = none → readQLo rsp = .refused (.absentField .qLo)) ∧
    (∀ b, rsp.qLo = some b → readQLo rsp = .next b) ∧
    (rsp.seqOut = none → readSeqOut rsp = .refused (.absentField .seqOut)) ∧
    (∀ l, rsp.seqOut = some l → readSeqOut rsp = .next l) ∧
    (rsp.toaOut = none → readToaOut rsp = .refused (.absentField .toaOut)) ∧
    (∀ b, rsp.toaOut = some b → readToaOut rsp = .next b)

/-- R68: TOAENC asks TOACHK and, only when that gave `valid = 1`, TOAQ, which then answers OK. Where
a request is already on the port, that the one asked replaces it is the model's choice (log 4). -/
def Obligations.ToaencQuantizesOnlyAcceptedToas : Prop :=
  ∀ (s : State) (toa : Option ToaBits), ∃ out t, toaenc toa s = .next (out, t) ∧
    if ∃ b, toa = some b ∧ toaInRange b then
      ∃ chk enc, out = [chk, enc] ∧ chk.valid = some true ∧ enc.status = 0x00#8 ∧ enc.q.isSome = true
    else ∃ chk, out = [chk] ∧ chk.valid = some false

/-- R68 with R104: UBITRT on a sequence that fits answers twice, the second time with the lanes it was given, 255
become 254; on an absent or too long one the host has no `seq_out` to go on with (log 11). Where a request
is already on the port, that the one asked replaces it is the model's choice (log 4). -/
def Obligations.UbitrtReturnsTheLanes : Prop :=
  ∀ (s : State) (o : Option (List Lane)),
    if ∃ seq, o = some seq ∧ s.cfg.maxSeqLen.admits seq.length = true then
      ∃ a b t seq, o = some seq ∧ ubitrt o s = .next ([a, b], t) ∧
        b.seqOut = some (seq.map (fun u => if u = 0xFF#8 then 0xFE#8 else u))
    else ubitrt o s = .refused (.absentField .seqOut)

/-- R44: a ToA carried as eight bytes, bits 63..56 first, is the ToA again. -/
def Obligations.ToaBytesRoundTrip : Prop :=
  ∀ b : ToaBits, (toaBytes b)[0]? = some (b.extractLsb' 56 8) ∧ toaOfBytes (toaBytes b) = some b

/-- R43: placing the ToA bytes in a downlink message puts the high byte at offset 6 and the low byte at offset 7,
these are the bytes TOADQ is asked about, and every other byte of the message is left alone. -/
def Obligations.PlacedToaBytesAreTheOnesRead : Prop :=
  ∀ (msg : List Byte) (hi lo : Byte), 8 ≤ msg.length →
    (placeToa msg hi lo)[6]? = some hi ∧ (placeToa msg hi lo)[7]? = some lo ∧
    toadqOfMessage (placeToa msg hi lo) = some (.toadq hi lo) ∧
    ∀ n, n ≠ 6 → n ≠ 7 → (placeToa msg hi lo)[n]? = msg[n]?
end

