-- ==== Sys2Proof/Laws/Binary64.lean ====
section
/-!
SUPPORT. What the rounding of Binary64.lean does, said once: a quotient rounded half to even is within half a
divisor, and a magnitude that fits a 53-bit significand is left alone (spec/00_scope.md R13).
-/

namespace Sys2Proof.Machine

/-- Rounding half to even picks one of the two neighbours, whichever is nearer, the even one on a tie. -/
theorem roundHalfEven_cases {n d : Nat} (hd : 0 < d) :
    (roundHalfEven n d = n / d ∧ 2 * (n % d) ≤ d ∧ (2 * (n % d) = d → n / d % 2 = 0)) ∨
    (roundHalfEven n d = n / d + 1 ∧ d ≤ 2 * (n % d) ∧ (2 * (n % d) = d → (n / d + 1) % 2 = 0)) := by
  have hr := Nat.mod_lt n hd
  unfold roundHalfEven
  dsimp only
  split
  · exact .inl ⟨rfl, by omega, by omega⟩
  · split
    · exact .inr ⟨rfl, by omega, by omega⟩
    · rcases Nat.mod_two_eq_zero_or_one (n / d) with h | h
      · exact .inl ⟨by omega, by omega, by omega⟩
      · exact .inr ⟨by omega, by omega, by omega⟩

/-- A multiple of the divisor is its own rounding. -/
theorem roundHalfEven_mul {q d : Nat} (hd : 0 < d) : roundHalfEven (q * d) d = q := by
  simp [roundHalfEven, Nat.mul_div_cancel _ hd, hd]

/-- A magnitude that is a multiple of its unit in the last place is left alone. -/
theorem flMag_of_dvd {m : Nat} (h : 2 ^ ulpShift m ∣ m) : flMag m = m := by
  obtain ⟨q, hq⟩ := h
  unfold flMag
  generalize ulpShift m = k at *
  subst hq
  rw [Nat.mul_comm (2 ^ k) q, roundHalfEven_mul (by positivity)]

/-- Above the significand's width, the shift brings a magnitude below 2^53. -/
theorem lt_two_pow_ulpShift (m : Nat) : m < 2 ^ (53 + ulpShift m) := by
  refine lt_of_lt_of_le (Nat.lt_log2_self (n := m)) (Nat.pow_le_pow_right (by norm_num) ?_)
  unfold ulpShift
  omega

/-- A magnitude `a * 2^j` with a 53-bit significand `a` is left alone (R13). -/
theorem flMag_of_significand {a j : Nat} (ha : a < 2 ^ 53) : flMag (a * 2 ^ j) = a * 2 ^ j := by
  apply flMag_of_dvd
  rcases Nat.eq_zero_or_pos a with rfl | hpos
  · simp
  · have hlog : (a * 2 ^ j).log2 < 53 + j := by
      rw [Nat.log2_lt (by positivity), pow_add]
      exact Nat.mul_lt_mul_of_pos_right ha (by positivity)
    exact Dvd.dvd.mul_left (Nat.pow_dvd_pow 2 (by unfold ulpShift; omega)) a

/-- `fl` on a non-negative real is `fl` on its magnitude. -/
theorem fl_natCast (m : Nat) : fl (m : Int) = flMag m := by
  simp [fl, signed]

/-- `fl` is odd: it rounds a negative real as its opposite. -/
theorem fl_neg (u : Int) : fl (-u) = -fl u := by
  rcases lt_trichotomy u 0 with h | rfl | h
  · simp [fl, signed, h, not_lt.mpr h.le]
  · decide
  · simp [fl, signed, h, not_lt.mpr h.le]

end Sys2Proof.Machine
end

