-- ==== Sys2Proof/Laws/Operands.lean ====
section
/-!
SUPPORT. What the lane operations and the capacity check say, in terms of the library's own readings.
-/

namespace Sys2Proof.Machine

/-- The reading of a lane as `s8` is its two's-complement value. -/
theorem toS8_eq_toInt (lane : Lane) : toS8 lane = lane.toInt := by
  revert lane; decide

/-- Writing an `s8` in range and reading it back gives it back. -/
theorem toInt_fromS8 {v : Int} (lo : -128 ≤ v) (hi : v ≤ 127) : (fromS8 v).toInt = v := by
  simp only [fromS8, BitVec.toInt_ofInt, Int.bmod_def]
  omega

/-- A lane is a signed soft bit exactly when it is not 0x80 (R103, R105). -/
theorem isSbit_iff (lane : Lane) : isSbit lane = true ↔ lane ≠ 0x80#8 := by
  revert lane; decide

/-- A lane is a hard bit exactly when it is 0x00 or 0x01 (R107). -/
theorem isHbit_iff (lane : Lane) : isHbit lane = true ↔ lane = 0x00#8 ∨ lane = 0x01#8 := by
  simp [isHbit]

/-- The capacity check is the negation of the size check of R66. -/
theorem overCapacity_eq (cfg : Cfg) (n : Nat) : overCapacity cfg n = !cfg.maxSeqLen.admits n := by
  cases h : cfg.maxSeqLen with
  | unbounded => simp only [overCapacity, SeqLimit.admits, h, Bool.not_true]
  | atMost cap => simp only [overCapacity, SeqLimit.admits, h, ← decide_not, Nat.not_le]

end Sys2Proof.Machine
end

