-- ==== Sys2Proof/Laws/Converter.lean ====
section
/-!
SUPPORT. What each lane function and each lane domain of the converter says, once (spec/40_bit_converter.md).
-/

namespace Sys2Proof.Machine

/-- UBIT2SBIT on one lane (R101). -/
theorem ubitToSbit_toInt (u : Lane) :
    (ubitToSbit u).toInt = if u.toNat = 255 then -127 else 127 - (u.toNat : Int) := by
  revert u; decide +kernel

/-- UBIT2SBIT never gives -128 (R102), so SBIT2UBIT and SBIT2HBIT accept what it gives. -/
theorem isSbit_ubitToSbit (u : Lane) : isSbit (ubitToSbit u) = true := by
  revert u; decide +kernel

/-- SBIT2UBIT on one lane of its domain (R103): the marker 255 is never produced. -/
theorem sbitToUbit_toNat {b : Lane} (h : isSbit b = true) :
    ((sbitToUbit b).toNat : Int) = 127 - b.toInt ∧ sbitToUbit b ≠ erasureMarker := by
  revert b; decide +kernel

/-- SBIT2HBIT gives hard bits (R105), so HBIT2SBIT accepts what it gives. -/
theorem isHbit_sbitToHbit (b : Lane) : isHbit (sbitToHbit b) = true := by
  revert b; decide +kernel

/-- HBIT2SBIT on one lane of its domain (R107). -/
theorem hbitToSbit_toInt {h : Lane} (_ : isHbit h = true) :
    (hbitToSbit h).toInt = if h.toNat = 1 then -127 else 127 := by
  revert h; decide +kernel

/-- HBIT2SBIT gives signed soft bits (R107), so SBIT2HBIT accepts what it gives. -/
theorem isSbit_hbitToSbit (h : Lane) : isSbit (hbitToSbit h) = true := by
  revert h; decide +kernel

/-- A sequence is in the domain of the signed soft bits exactly when it holds no 0x80. -/
theorem all_isSbit_iff (l : List Lane) : l.all isSbit = true ↔ 0x80#8 ∉ l := by
  simp only [List.all_eq_true, isSbit_iff]
  exact ⟨fun h hm => h _ hm rfl, fun h b hb e => h (e ▸ hb)⟩

/-- A sequence is in the domain of the hard bits exactly when every lane is 0x00 or 0x01. -/
theorem all_isHbit_iff (l : List Lane) :
    l.all isHbit = true ↔ ∀ lane ∈ l, lane = 0x00#8 ∨ lane = 0x01#8 := by
  simp only [List.all_eq_true, isHbit_iff]

end Sys2Proof.Machine
end

