-- ==== Sys2Proof/Laws/Decode.lean ====
section
/-!
SUPPORT. The operands of an encoded request are the ones it was encoded from.
-/

namespace Sys2Proof

@[simp] theorem Request.withSeq_op (op : Byte) (seq : Option (List Lane)) :
    (Request.withSeq op seq).op = op := by
  cases seq <;> rfl

@[simp] theorem Request.withSeq_seqOperand (op : Byte) (seq : Option (List Lane)) :
    (Request.withSeq op seq).seqOperand = seq := by
  cases seq <;> rfl

@[simp] theorem Request.withToa_op (op : Byte) (toa : Option ToaBits) :
    (Request.withToa op toa).op = op := by
  cases toa <;> rfl

@[simp] theorem Request.withToa_toaOperand (op : Byte) (toa : Option ToaBits) :
    (Request.withToa op toa).toaOperand = toa := by
  cases toa <;> rfl

@[simp] theorem Request.withReceived_op (op wHi wLo : Byte) :
    (Request.withReceived op wHi wLo).op = op := rfl

@[simp] theorem Request.withReceived_wHi (op wHi wLo : Byte) :
    (Request.withReceived op wHi wLo).wHi = wHi := rfl

@[simp] theorem Request.withReceived_wLo (op wHi wLo : Byte) :
    (Request.withReceived op wHi wLo).wLo = wLo := rfl

end Sys2Proof
end

