-- ==== Sys2Proof/Laws/State.lean ====
section
/-!
SUPPORT. One lemma per field of State for each operation over the ports, and the fields of the responses the
operations build, so that no later proof unfolds a record update.
-/

namespace Sys2Proof.Machine

@[simp] theorem State.respond_cfg (s : State) (r : Response) : (s.respond r).cfg = s.cfg := rfl
@[simp] theorem State.respond_request (s : State) (r : Response) : (s.respond r).request = s.request := rfl
@[simp] theorem State.respond_response (s : State) (r : Response) : (s.respond r).response = some r := rfl

@[simp] theorem State.takeRequest_cfg (s : State) : s.takeRequest.cfg = s.cfg := rfl
@[simp] theorem State.takeRequest_request (s : State) : s.takeRequest.request = none := rfl
@[simp] theorem State.takeRequest_response (s : State) : s.takeRequest.response = s.response := rfl

@[simp] theorem State.issue_cfg (s : State) (r : Request) : (s.issue r).cfg = s.cfg := rfl
@[simp] theorem State.issue_request (s : State) (r : Request) : (s.issue r).request = some r := rfl
@[simp] theorem State.issue_response (s : State) (r : Request) : (s.issue r).response = s.response := rfl

@[simp] theorem State.applyReset_cfg (s : State) : s.applyReset.cfg = s.cfg := rfl
@[simp] theorem State.applyReset_request (s : State) : s.applyReset.request = none := rfl
@[simp] theorem State.applyReset_response (s : State) : s.applyReset.response = none := rfl

@[simp] theorem State.idle_eq (s : State) : s.idle = s := rfl

@[simp] theorem State.withFetchWord_cfg (s : State) (nbits w : Nat) :
    (s.withFetchWord nbits w).cfg = s.cfg := rfl
@[simp] theorem State.withFetchWord_request (s : State) (nbits w : Nat) :
    (s.withFetchWord nbits w).request = some (requestOfTableWord w) := rfl
@[simp] theorem State.withFetchWord_response (s : State) (nbits w : Nat) :
    (s.withFetchWord nbits w).response = s.response := rfl

@[simp] theorem State.reset_cfg : State.reset.cfg = Config.cfg := rfl
@[simp] theorem State.reset_request : State.reset.request = none := rfl
@[simp] theorem State.reset_response : State.reset.response = none := rfl

@[simp] theorem raise_status (st : Status) : (raise st).status = st.code := rfl
@[simp] theorem raise_valid (st : Status) : (raise st).valid = none := rfl
@[simp] theorem raise_q (st : Status) : (raise st).q = none := rfl
@[simp] theorem raise_qHi (st : Status) : (raise st).qHi = none := rfl
@[simp] theorem raise_qLo (st : Status) : (raise st).qLo = none := rfl
@[simp] theorem raise_seqOut (st : Status) : (raise st).seqOut = none := rfl
@[simp] theorem raise_toaOut (st : Status) : (raise st).toaOut = none := rfl

@[simp] theorem okValid_status (v : Bool) : (okValid v).status = 0x00#8 := rfl
@[simp] theorem okValid_valid (v : Bool) : (okValid v).valid = some v := rfl
@[simp] theorem okValid_q (v : Bool) : (okValid v).q = none := rfl
@[simp] theorem okValid_qHi (v : Bool) : (okValid v).qHi = none := rfl
@[simp] theorem okValid_qLo (v : Bool) : (okValid v).qLo = none := rfl
@[simp] theorem okValid_seqOut (v : Bool) : (okValid v).seqOut = none := rfl
@[simp] theorem okValid_toaOut (v : Bool) : (okValid v).toaOut = none := rfl

@[simp] theorem okSeq_status (l : List Lane) : (okSeq l).status = 0x00#8 := rfl
@[simp] theorem okSeq_valid (l : List Lane) : (okSeq l).valid = none := rfl
@[simp] theorem okSeq_q (l : List Lane) : (okSeq l).q = none := rfl
@[simp] theorem okSeq_qHi (l : List Lane) : (okSeq l).qHi = none := rfl
@[simp] theorem okSeq_qLo (l : List Lane) : (okSeq l).qLo = none := rfl
@[simp] theorem okSeq_seqOut (l : List Lane) : (okSeq l).seqOut = some l := rfl
@[simp] theorem okSeq_toaOut (l : List Lane) : (okSeq l).toaOut = none := rfl

@[simp] theorem okQ_status (q : Q8) : (okQ q).status = 0x00#8 := rfl
@[simp] theorem okQ_valid (q : Q8) : (okQ q).valid = none := rfl
@[simp] theorem okQ_q (q : Q8) : (okQ q).q = some q := rfl
@[simp] theorem okQ_qHi (q : Q8) : (okQ q).qHi = some (q.extractLsb' 8 8) := rfl
@[simp] theorem okQ_qLo (q : Q8) : (okQ q).qLo = some (q.extractLsb' 0 8) := rfl
@[simp] theorem okQ_seqOut (q : Q8) : (okQ q).seqOut = none := rfl
@[simp] theorem okQ_toaOut (q : Q8) : (okQ q).toaOut = none := rfl

/-- TOADQ's response is the one with status OK and no data field at all. -/
theorem okNoToa_eq : okNoToa = freshResponse .ok := rfl

end Sys2Proof.Machine
end

