-- ==== Sys2Proof/Laws/Ops.lean ====
section
/-!
SUPPORT. What each shared operation can answer, said once: the converter's procedure, the burst check and the
two ToA answers; and the one thing every operation does to the state.
-/

namespace Sys2Proof.Machine

/-- Everything the converter's procedure can answer (R100, R207). -/
theorem convert_cases (cfg : Cfg) (dom : Lane → Bool) (f : Lane → Lane) (seq : Option (List Lane)) :
    (seq = none ∧ convert cfg dom f seq = raise .domain) ∨
    ∃ l, seq = some l ∧
      ((overCapacity cfg l.length = true ∧ convert cfg dom f seq = raise .capacity) ∨
       (overCapacity cfg l.length = false ∧ l.all dom = true ∧ convert cfg dom f seq = okSeq (l.map f)) ∨
       (overCapacity cfg l.length = false ∧ l.all dom = false ∧ convert cfg dom f seq = raise .domain)) := by
  cases seq with
  | none => exact .inl ⟨rfl, rfl⟩
  | some l =>
    refine .inr ⟨l, rfl, ?_⟩
    cases hc : overCapacity cfg l.length <;> cases hd : l.all dom <;> simp [convert, hc, hd]

/-- Everything BURSTCHK can answer (R130). -/
theorem burstAnswer_cases (cfg : Cfg) (seq : Option (List Lane)) :
    (seq = none ∧ burstAnswer cfg seq = okValid false) ∨
    ∃ l, seq = some l ∧
      ((overCapacity cfg l.length = true ∧ burstAnswer cfg seq = raise .capacity) ∨
       (overCapacity cfg l.length = false ∧
         burstAnswer cfg seq = okValid (permittedLength cfg l.length))) := by
  cases seq with
  | none => exact .inl ⟨rfl, rfl⟩
  | some l =>
    refine .inr ⟨l, rfl, ?_⟩
    cases hc : overCapacity cfg l.length <;> simp [burstAnswer, hc]

/-- When the range check accepts an operand, and as what (R151). -/
theorem acceptedToa_eq_some {toa : Option ToaBits} {t : Int} (h : acceptedToa toa = some t) :
    ∃ b neg mag, toa = some b ∧ F64.ofBits b = .finite neg mag ∧ t = signed neg mag ∧
      -(10 * unitsPerOne : Int) ≤ t ∧ t ≤ 10 * unitsPerOne := by
  cases toa with
  | none => simp [acceptedToa] at h
  | some b =>
    cases hb : F64.ofBits b with
    | nan => simp [acceptedToa, hb] at h
    | inf neg => simp [acceptedToa, hb] at h
    | finite neg mag =>
      simp only [acceptedToa, hb, Option.ite_none_right_eq_some, Option.some.injEq] at h
      obtain ⟨hr, rfl⟩ := h
      exact ⟨b, neg, mag, rfl, hb, rfl, hr⟩

/-- Everything TOAQ can answer (R152, R153). -/
theorem toaqAnswer_cases (toa : Option ToaBits) :
    (acceptedToa toa = none ∧ toaqAnswer toa = raise .validation) ∨
    ∃ t, acceptedToa toa = some t ∧ toaqAnswer toa = okQ (q8OfInt (quantize t)) := by
  cases h : acceptedToa toa with
  | none => exact .inl ⟨rfl, by simp [toaqAnswer, h]⟩
  | some t => exact .inr ⟨t, rfl, by simp [toaqAnswer, h]⟩

/-- The one thing an operation does: it delivers a response, which is a function of itself and of the
configuration alone. -/
theorem exec_responds (i : Instr) (s : State) :
    ∃ r, exec i s = .next (s.respond r) ∧ ∀ t : State, t.cfg = s.cfg → exec i t = .next (t.respond r) := by
  cases i with
  | ubit2sbit seq => exact ⟨_, rfl, fun t h => by simp [exec, execUbit2sbit, h]⟩
  | sbit2ubit seq => exact ⟨_, rfl, fun t h => by simp [exec, execSbit2ubit, h]⟩
  | sbit2hbit seq => exact ⟨_, rfl, fun t h => by simp [exec, execSbit2hbit, h]⟩
  | hbit2sbit seq => exact ⟨_, rfl, fun t h => by simp [exec, execHbit2sbit, h]⟩
  | burstchk seq => exact ⟨_, rfl, fun t h => by simp [exec, execBurstchk, h]⟩
  | toachk toa => exact ⟨_, rfl, fun _ _ => rfl⟩
  | toaq toa => exact ⟨_, rfl, fun _ _ => rfl⟩
  | toadq wHi wLo => exact ⟨_, rfl, fun _ _ => rfl⟩

end Sys2Proof.Machine
end

