-- ==== Sys2Proof/Laws/PerInstr.lean ====
section
/-!
SUPPORT. The families of statements made per instruction (LAWS.json). EncodedFields: an encoded request carries
the operation's `op` byte and nothing its format does not read (spec/30_encoding.md R62).
-/

namespace Sys2Proof.Laws.EncodedFields

/-- The encoding has the operation's `op` byte and survives the removal of every field its format does not
read. -/
def Statement (i : Instr) : Prop :=
  (encode i).op = i.opByte ∧ (encode i).restrictTo i.format = encode i

theorem ubit2sbit (seq : Option (List Lane)) : Statement (.ubit2sbit seq) := by
  simp [Statement, encode, Request.restrictTo, Instr.format]

theorem sbit2ubit (seq : Option (List Lane)) : Statement (.sbit2ubit seq) := by
  simp [Statement, encode, Request.restrictTo, Instr.format]

theorem sbit2hbit (seq : Option (List Lane)) : Statement (.sbit2hbit seq) := by
  simp [Statement, encode, Request.restrictTo, Instr.format]

theorem hbit2sbit (seq : Option (List Lane)) : Statement (.hbit2sbit seq) := by
  simp [Statement, encode, Request.restrictTo, Instr.format]

theorem burstchk (seq : Option (List Lane)) : Statement (.burstchk seq) := by
  simp [Statement, encode, Request.restrictTo, Instr.format]

theorem toachk (toa : Option ToaBits) : Statement (.toachk toa) := by
  simp [Statement, encode, Request.restrictTo, Instr.format]

theorem toaq (toa : Option ToaBits) : Statement (.toaq toa) := by
  simp [Statement, encode, Request.restrictTo, Instr.format]

theorem toadq (wHi wLo : Byte) : Statement (.toadq wHi wLo) := by
  simp [Statement, encode, Request.restrictTo, Instr.format]

end Sys2Proof.Laws.EncodedFields
end

