-- ==== Sys2Proof/Laws/Safety.lean ====
section
/-!
SUPPORT. The exact value of a binary64 pattern (spec/30_encoding.md R63): from its three fields, and from the
units of 2^-1074 the machine decodes it to.
-/

namespace Sys2Proof.Safety

open Sys2Proof.Machine

/-- The machine's decoding of a finite pattern, in units of 2^-1074, is its exact value. -/
theorem toaReal_of_ofBits {b : ToaBits} {neg : Bool} {mag : Nat} (h : F64.ofBits b = .finite neg mag) :
    toaReal b = (signed neg mag : ℚ) / (unitsPerOne : ℚ) := by
  have hz : (2 : ℚ) ≠ 0 := by norm_num
  have hone : ((unitsPerOne : ℕ) : ℚ) = (2 : ℚ) ^ (1074 : ℤ) := by
    simp only [unitsPerOne, zpow_ofNat, Nat.cast_pow, Nat.cast_ofNat]
  rw [eq_div_iff (by rw [hone]; positivity), hone]
  unfold F64.ofBits at h
  unfold toaReal signed
  dsimp only at h ⊢
  generalize (BitVec.extractLsb' 0 52 b).toNat = f at *
  generalize (BitVec.extractLsb' 52 11 b).toNat = e at *
  split at h
  · split at h <;> cases h
  · split at h
    · next he =>
      cases h
      rw [if_pos he, mul_assoc, ← zpow_add₀ hz]
      split <;> simp
    · next he =>
      cases h
      have hexp : ((e : ℤ) - 1075 + 1074) = ((e - 1 : ℕ) : ℤ) := by omega
      rw [if_neg he, mul_assoc, ← zpow_add₀ hz, hexp, zpow_natCast]
      split <;> push_cast <;> ring

/-- The machine decodes a pattern to a finite value exactly when its exponent field is not 0x7FF. -/
theorem ofBits_finite_iff (b : ToaBits) :
    (∃ neg mag, F64.ofBits b = .finite neg mag) ↔ toaFinite b := by
  unfold F64.ofBits toaFinite
  dsimp only
  generalize (BitVec.extractLsb' 52 11 b).toNat = e
  split
  · split <;> simp [*]
  · split <;> simp [*]

/-- The value of a pattern whose exponent field is not 0, from its fields. -/
theorem toaReal_normal {toa : ToaBits} {neg : Bool} {e f : Nat} (hs : toa.getLsbD 63 = neg)
    (he : (toa.extractLsb' 52 11).toNat = e) (h0 : e ≠ 0) (hf : (toa.extractLsb' 0 52).toNat = f) :
    toaReal toa = (if neg then -1 else 1) * (2 ^ 52 + (f : ℚ)) * (2 : ℚ) ^ ((e : Int) - 1075) := by
  unfold toaReal
  dsimp only
  rw [hs, he, hf, if_neg h0]

end Sys2Proof.Safety
end

