-- ==== Sys2Proof/Laws/Step.lean ====
section
/-!
SUPPORT. What serving a request and one step can do, said once.
-/

namespace Sys2Proof.Machine

/-- A request with an assigned `op` runs its operation. -/
theorem serveRequest_of_decode {r : Request} {i : Instr} (h : decode r = .ok i) (s : State) :
    serveRequest r s = exec i s := by
  simp [serveRequest, h]

/-- A request with a reserved `op` is answered ILLEGAL_OP (R202). -/
theorem serveRequest_of_illegal {r : Request} {e : DecodeError} (h : decode r = .error e) (s : State) :
    serveRequest r s = .next (s.respond (raise .illegalOp)) := by
  simp [serveRequest, h, State.raiseIllegalOp]

/-- Serving delivers one response, a function of the request and the configuration (R20, R47). -/
theorem serveRequest_responds (r : Request) (s : State) :
    ∃ rsp, serveRequest r s = .next (s.respond rsp) ∧
      ∀ t : State, t.cfg = s.cfg → serveRequest r t = .next (t.respond rsp) := by
  cases h : decode r with
  | error e => exact ⟨_, serveRequest_of_illegal h s, fun t _ => serveRequest_of_illegal h t⟩
  | ok i =>
    obtain ⟨rsp, hs, ht⟩ := exec_responds i s
    exact ⟨rsp, (serveRequest_of_decode h s).trans hs,
      fun t hc => (serveRequest_of_decode h t).trans (ht t hc)⟩

/-- Everything a step can do: idle, or take the request on the port and deliver its response. -/
theorem step_cases (s : State) :
    (s.request = none ∧ step s = .next s) ∨
    ∃ r rsp, s.request = some r ∧ serveRequest r s.takeRequest = .next (s.takeRequest.respond rsp) ∧
      step s = .next (s.takeRequest.respond rsp) := by
  cases h : s.request with
  | none => exact .inl ⟨rfl, by simp [step, h]⟩
  | some r =>
    obtain ⟨rsp, hr, _⟩ := serveRequest_responds r s.takeRequest
    exact .inr ⟨r, rsp, rfl, hr, by simp [step, h, hr]⟩

@[simp] theorem andThen_next {α β : Type} (a : α) (f : α → Host.Outcome β Fault Refusal) :
    andThen (.next a) f = f a := rfl

@[simp] theorem orRefuse_some {α : Type} (a : α) (why : Refusal) : orRefuse (some a) why = .next a := rfl

@[simp] theorem orRefuse_none {α : Type} (why : Refusal) :
    orRefuse (none : Option α) why = .refused why := rfl

/-- Asking delivers one response and leaves the configuration alone (R20, R47). -/
theorem ask_answers (r : Request) (s : State) :
    ∃ rsp, ask r s = .next (rsp, (s.issue r).takeRequest.respond rsp) := by
  rcases step_cases (s.issue r) with ⟨h, _⟩ | ⟨_, rsp, _, _, hs⟩
  · simp at h
  · exact ⟨rsp, by simp [ask, hs]⟩

end Sys2Proof.Machine
end

