-- ==== Sys2Proof/Machine/Text.lean ====
section
/-!
DEFINITION. Reading the spec's own text syntax of a request (spec/30_encoding.md R67), one request per line. It is
the host's notation and no part of TQB. A line that is not in the syntax means no request.
-/

namespace Sys2Proof.Machine

/-- The digits of R67's numbers in order of value: the first ten are the decimal ones, all sixteen the
hexadecimal ones. -/
def digitsInOrder : List Char :=
  "0123456789ABCDEF".toList

/-- What a character counts for as a digit of this base: its place among the base's digits, a small letter
counting as its capital. -/
def digitValue (base : Nat) (c : Char) : Option Nat :=
  (digitsInOrder.take base).idxOf? c.toUpper

/-- One or more digits of this base as a number, the first digit weighing most. -/
def numberOfChars (base : Nat) (cs : List Char) : Option Nat :=
  if cs.isEmpty then none else (cs.mapM (digitValue base)).map fun ds => Nat.ofDigits base ds.reverse

/-- A text without its leading spaces. -/
def dropSpaces (cs : List Char) : List Char :=
  cs.dropWhile (· == ' ')

/-- `0x` and two hexadecimal digits. -/
def byteOfChars : List Char → Option Byte
  | ['0', 'x', hi, lo] => (numberOfChars 16 [hi, lo]).map (BitVec.ofNat 8)
  | _ => none

/-- A lane: a byte `0x..`, or a decimal that may be negative. -/
def laneTextOfChars : List Char → Option LaneText
  | '0' :: 'x' :: hs => (byteOfChars ('0' :: 'x' :: hs)).map LaneText.byte
  | '-' :: ds => (numberOfChars 10 ds).map fun n => .decimal (-(n : Int))
  | ds => (numberOfChars 10 ds).map fun n => .decimal n

/-- The lanes between the brackets of `[v0, v1, ...]`. -/
def lanesOfChars (cs : List Char) : Option (List LaneText) :=
  match dropSpaces cs with
  | [] => some []
  | body => (body.splitOn ',').mapM fun w => laneTextOfChars (dropSpaces w)

/-- An FS or FB operand: `-`, `#n`, `rK` or `[...]`. -/
def seqTextOfChars : List Char → Option SeqText
  | ['-'] => some .absent
  | '#' :: ds => (numberOfChars 10 ds).map SeqText.zeros
  | 'r' :: ds => (numberOfChars 10 ds).map SeqText.result
  | '[' :: rest =>
    match rest.reverse with
    | ']' :: body => (lanesOfChars body.reverse).map SeqText.lanes
    | _ => none
  | _ => none

/-- A decimal literal: digits, and a point with digits after it if there is one. -/
def decimalOfChars (neg : Bool) (cs : List Char) : Option ToaText :=
  match cs.splitOn '.' with
  | [whole] => (numberOfChars 10 whole).map fun n => .decimal neg n 0
  | [whole, part] =>
    match whole, part with
    | [], _ => none
    | _, [] => none
    | _, _ => (numberOfChars 10 (whole ++ part)).map fun n => .decimal neg n part.length
  | _ => none

/-- An FT operand: `-`, `0x` and 16 hexadecimal digits, or a decimal literal. -/
def toaTextOfChars : List Char → Option ToaText
  | ['-'] => some .absent
  | '0' :: 'x' :: hs =>
    if hs.length = 16 then (numberOfChars 16 hs).map fun n => .pattern (BitVec.ofNat 64 n) else none
  | '-' :: ds => decimalOfChars true ds
  | ds => decimalOfChars false ds

/-- The two bytes of `TOADQ 0xHH, 0xLL`. -/
def receivedOfChars (cs : List Char) : Option Line :=
  match (cs.splitOn ',').map fun w => byteOfChars (dropSpaces w) with
  | [some hi, some lo] => some (.toadq hi lo)
  | _ => none

/-- A line: a mnemonic of R61, or `op`, and its operand after a space. -/
def lineOfChars (cs : List Char) : Option Line :=
  match cs.splitOn ' ' with
  | [] => none
  | word :: _ =>
    let operand := dropSpaces (cs.drop word.length)
    if word = "UBIT2SBIT".toList then (seqTextOfChars operand).map Line.ubit2sbit
    else if word = "SBIT2UBIT".toList then (seqTextOfChars operand).map Line.sbit2ubit
    else if word = "SBIT2HBIT".toList then (seqTextOfChars operand).map Line.sbit2hbit
    else if word = "HBIT2SBIT".toList then (seqTextOfChars operand).map Line.hbit2sbit
    else if word = "BURSTCHK".toList then (seqTextOfChars operand).map Line.burstchk
    else if word = "TOACHK".toList then (toaTextOfChars operand).map Line.toachk
    else if word = "TOAQ".toList then (toaTextOfChars operand).map Line.toaq
    else if word = "TOADQ".toList then receivedOfChars operand
    else if word = "op".toList then (byteOfChars operand).map Line.rawOp
    else none

/-- Run a text program, one request per line, from a state of the unit (R21, R67). -/
def runText (program : List String) (s : State) : Host.Outcome (List Response × State) Fault Refusal :=
  andThen (orRefuse (program.mapM fun l => lineOfChars l.toList) .illFormedLine) fun lines =>
    runLines [] lines s

/-- The data fields a response lists, in the order of R23: only the present ones (R67). -/
def presentFields (r : Response) : List DataField :=
  (if r.valid.isSome then [.valid] else []) ++ (if r.q.isSome then [.q] else []) ++
  (if r.qHi.isSome then [.qHi] else []) ++ (if r.qLo.isSome then [.qLo] else []) ++
  (if r.seqOut.isSome then [.seqOut] else []) ++ (if r.toaOut.isSome then [.toaOut] else [])

end Sys2Proof.Machine
end

