-- ==== Sys2Proof/Tests/Slice0.lean ====
section
/-!
SUPPORT. Tests. Expected values come from spec/95_test_vectors.md (the vector's id stands in the comment) or from
the spec's encoding table R61; the witnesses show that the hypotheses of each statement can be met.
-/

namespace Sys2Proof.Tests

open Sys2Proof.Machine Sys2Proof.Safety

/-- The illustrative configuration of 95_test_vectors.md. -/
def cfg148 : Cfg := { normalLen := 148, edgeLen := 444, maxSeqLen := .unbounded }

/-- A small configuration with a finite capacity. -/
def cfgSmall : Cfg := { normalLen := 2, edgeLen := 3, maxSeqLen := .atMost 3 }

/-- A unit with nothing on its ports. -/
def unit (cfg : Cfg) : State := { cfg := cfg, request := none, response := none }

/-- A unit with this request on its input port and an old response on its output port. -/
def asked (cfg : Cfg) (r : Request) : State :=
  { cfg := cfg, request := some r, response := some (okValid true) }

/-- The response an operation delivers. -/
def answer (cfg : Cfg) (i : Instr) : Option Response :=
  match exec i (unit cfg) with
  | .next t => t.response
  | .fault _ => none
  | .refused _ => none

/-- The response one step leaves on the output port. -/
def stepAnswer (s : State) : Option Response :=
  match step s with
  | .next t => t.response
  | .fault _ => none
  | .refused _ => none

/-! ## Well-formedness: each check refuses an ill-formed term -/

theorem test_cfg_wf_refuses_small_capacity :
    Cfg.wf { normalLen := 148, edgeLen := 444, maxSeqLen := .atMost 443 } = false ∧
    Cfg.wf { normalLen := 148, edgeLen := 444, maxSeqLen := .atMost 444 } = true := by decide

theorem test_fits_refuses_too_many_lanes :
    Instr.fits cfgSmall (.burstchk (some [0#8, 0#8, 0#8, 0#8])) = false ∧
    Instr.fits cfgSmall (.burstchk (some [0#8, 0#8, 0#8])) = true := by decide

theorem test_line_wf_refuses_lanes_of_the_other_type :
    Line.wf (.ubit2sbit (.lanes [.decimal (-1)])) = false ∧
    Line.wf (.burstchk (.lanes [.decimal 256])) = false ∧
    Line.wf (.sbit2hbit (.lanes [.decimal 128])) = false ∧
    Line.wf (.sbit2ubit (.lanes [.decimal (-128), .decimal 127, .byte 0xFF#8])) = true := by decide

/-! ## Decoding: one request per operation, its `op` written as `fam` and `fn` bits of R61 -/

theorem test_decode_ubit2sbit :
    decode { op := 0b00010000#8, seqPresent := true, seq := [0xFE#8, 0xFF#8], toaPresent := false,
             toa := 0#64, wHi := 0#8, wLo := 0#8 } = .ok (.ubit2sbit (some [0xFE#8, 0xFF#8])) := rfl

theorem test_decode_sbit2ubit :
    decode { op := 0b00010001#8, seqPresent := true, seq := [0x81#8], toaPresent := false,
             toa := 0#64, wHi := 0#8, wLo := 0#8 } = .ok (.sbit2ubit (some [0x81#8])) := rfl

theorem test_decode_sbit2hbit :
    decode { op := 0b00010010#8, seqPresent := true, seq := [], toaPresent := true,
             toa := 1#64, wHi := 0#8, wLo := 0#8 } = .ok (.sbit2hbit (some [])) := rfl

theorem test_decode_hbit2sbit :
    decode { op := 0b00010011#8, seqPresent := false, seq := [0x01#8], toaPresent := false,
             toa := 0#64, wHi := 0#8, wLo := 0#8 } = .ok (.hbit2sbit none) := rfl

theorem test_decode_burstchk :
    decode { op := 0b00100000#8, seqPresent := true, seq := [0x80#8], toaPresent := false,
             toa := 0#64, wHi := 0#8, wLo := 0#8 } = .ok (.burstchk (some [0x80#8])) := rfl

theorem test_decode_toachk :
    decode { op := 0b00110000#8, seqPresent := false, seq := [], toaPresent := true,
             toa := 0xC024000000000000#64, wHi := 0#8, wLo := 0#8 } =
      .ok (.toachk (some 0xC024000000000000#64)) := rfl

theorem test_decode_toaq :
    decode { op := 0b00110001#8, seqPresent := false, seq := [], toaPresent := false,
             toa := 0xC024000000000000#64, wHi := 0#8, wLo := 0#8 } = .ok (.toaq none) := rfl

theorem test_decode_toadq :
    decode { op := 0b00110010#8, seqPresent := false, seq := [], toaPresent := false,
             toa := 0#64, wHi := 0x0A#8, wLo := 0x01#8 } = .ok (.toadq 0x0A#8 0x01#8) := rfl

/-- V-E1 to V-E10. -/
theorem test_decode_refuses_reserved_values :
    ∀ op ∈ [0x00#8, 0x0F#8, 0x14#8, 0x1F#8, 0x21#8, 0x2F#8, 0x33#8, 0x3F#8, 0x40#8, 0xFF#8],
      decode (Request.blank op) = .error (.illegalOp op) := by
  intro op h
  fin_cases h <;> rfl

theorem test_table_words :
    decodeTableWord 8 0x10 = some (.ubit2sbit none) ∧ decodeTableWord 8 0x11 = some (.sbit2ubit none) ∧
    decodeTableWord 8 0x12 = some (.sbit2hbit none) ∧ decodeTableWord 8 0x13 = some (.hbit2sbit none) ∧
    decodeTableWord 8 0x20 = some (.burstchk none) ∧ decodeTableWord 8 0x30 = some (.toachk none) ∧
    decodeTableWord 8 0x31 = some (.toaq none) ∧ decodeTableWord 8 0x32 = some (.toadq 0#8 0#8) ∧
    decodeTableWord 8 0x14 = none ∧ decodeTableWord 16 0x10 = none := by decide

/-- The first request after reset is served (R230): a table word is taken, decoded and run. -/
theorem test_reset_serves_the_fetched_word :
    stepAnswer (State.reset.withFetchWord 8 0x20) = some (okValid false) ∧
    stepAnswer (State.reset.withFetchWord 8 0x10) = some (raise .domain) ∧
    stepAnswer (State.reset.withFetchWord 8 0x32) = some (dataless 0x00#8) := by decide

/-- V-E11: ILLEGAL_OP outranks every other check. -/
theorem test_illegal_op_outranks_all :
    stepAnswer (asked { cfgSmall with maxSeqLen := .atMost 0 }
      { Request.blank 0x00#8 with seqPresent := true, seq := [0x80#8] }) = some (dataless 0x03#8) := by
  decide

/-! ## Converter -/

/-- V-C1. -/
theorem test_ubit2sbit_lanes :
    answer cfg148 (.ubit2sbit (some [0x00#8, 0x01#8, 0x7E#8, 0x7F#8, 0x80#8, 0x81#8, 0xFD#8, 0xFE#8, 0xFF#8])) =
      some { dataless 0x00#8 with
        seqOut := some [0x7F#8, 0x7E#8, 0x01#8, 0x00#8, 0xFF#8, 0xFE#8, 0x82#8, 0x81#8, 0x81#8] } := by
  decide

/-- V-C2, V-C3, and V-C13 on a smaller capacity. -/
theorem test_ubit2sbit_empty_absent_capacity :
    answer cfg148 (.ubit2sbit (some [])) = some { dataless 0x00#8 with seqOut := some [] } ∧
    answer cfg148 (.ubit2sbit none) = some (dataless 0x02#8) ∧
    answer cfgSmall (.ubit2sbit (some [0#8, 0#8, 0#8, 0#8])) = some (dataless 0x04#8) := by decide

/-- V-C4. -/
theorem test_sbit2ubit_lanes :
    answer cfg148 (.sbit2ubit (some [0x81#8, 0xFF#8, 0x00#8, 0x01#8, 0x7F#8])) =
      some { dataless 0x00#8 with seqOut := some [0xFE#8, 0x80#8, 0x7F#8, 0x7E#8, 0x00#8] } := by decide

/-- V-C6, V-C14. -/
theorem test_sbit2ubit_domain_and_capacity :
    answer cfg148 (.sbit2ubit (some [0x7F#8, 0x80#8])) = some (dataless 0x02#8) ∧
    answer { cfg148 with maxSeqLen := .atMost 2 } (.sbit2ubit (some [0x80#8, 0x80#8, 0x80#8])) =
      some (dataless 0x04#8) := by decide

/-- V-C7. -/
theorem test_sbit2hbit_lanes :
    answer cfg148 (.sbit2hbit (some [0x81#8, 0xFF#8, 0x00#8, 0x01#8, 0x7F#8])) =
      some { dataless 0x00#8 with seqOut := some [0x01#8, 0x01#8, 0x00#8, 0x00#8, 0x00#8] } := by decide

/-- V-C8. -/
theorem test_sbit2hbit_domain :
    answer cfg148 (.sbit2hbit (some [0x80#8])) = some (dataless 0x02#8) := by decide

/-- V-C10. -/
theorem test_hbit2sbit_lanes :
    answer cfg148 (.hbit2sbit (some [0x01#8, 0x00#8, 0x01#8, 0x01#8])) =
      some { dataless 0x00#8 with seqOut := some [0x81#8, 0x7F#8, 0x81#8, 0x81#8] } := by decide

/-- V-C11, V-C12. -/
theorem test_hbit2sbit_domain :
    answer cfg148 (.hbit2sbit (some [0x02#8])) = some (dataless 0x02#8) ∧
    answer cfg148 (.hbit2sbit (some [0xFF#8])) = some (dataless 0x02#8) := by decide

/-! ## Burst-length validator -/

/-- V-B3 to V-B5, V-B9, on 148 lanes. -/
theorem test_burstchk_lengths :
    answer cfg148 (.burstchk (some (List.replicate 147 0#8))) = some { dataless 0x00#8 with valid := some false } ∧
    answer cfg148 (.burstchk (some (List.replicate 148 0#8))) = some { dataless 0x00#8 with valid := some true } ∧
    answer cfg148 (.burstchk none) = some { dataless 0x00#8 with valid := some false } := by decide +kernel

/-- V-B12 on a smaller capacity. -/
theorem test_burstchk_capacity :
    answer cfgSmall (.burstchk (some [0#8, 0#8, 0#8, 0#8])) = some (dataless 0x04#8) ∧
    answer cfgSmall (.burstchk (some [0x80#8, 0x80#8, 0x80#8])) =
      some { dataless 0x00#8 with valid := some true } := by decide

/-! ## Time-of-arrival quantizer -/

/-- V-T5 to V-T8: both bounds and their outer neighbours. -/
theorem test_toachk_bounds :
    answer cfg148 (.toachk (some 0x4024000000000000#64)) = some { dataless 0x00#8 with valid := some true } ∧
    answer cfg148 (.toachk (some 0xC024000000000000#64)) = some { dataless 0x00#8 with valid := some true } ∧
    answer cfg148 (.toachk (some 0x4024000000000001#64)) = some { dataless 0x00#8 with valid := some false } ∧
    answer cfg148 (.toachk (some 0xC024000000000001#64)) = some { dataless 0x00#8 with valid := some false } := by
  decide +kernel

/-- V-T2, V-T24, V-T31, V-T33, V-T34: -0.0, a subnormal, NaN and the infinities. -/
theorem test_toachk_special_values :
    answer cfg148 (.toachk (some 0x8000000000000000#64)) = some { dataless 0x00#8 with valid := some true } ∧
    answer cfg148 (.toachk (some 0x0000000000000001#64)) = some { dataless 0x00#8 with valid := some true } ∧
    answer cfg148 (.toachk (some 0x7FF8000000000000#64)) = some { dataless 0x00#8 with valid := some false } ∧
    answer cfg148 (.toachk (some 0x7FF0000000000000#64)) = some { dataless 0x00#8 with valid := some false } ∧
    answer cfg148 (.toachk (some 0xFFF0000000000000#64)) = some { dataless 0x00#8 with valid := some false } := by
  decide +kernel

/-- The word of a pattern, as an integer. -/
def qiOf (b : ToaBits) : Option Int :=
  (acceptedToa (some b)).map quantize

/-- V-T3 to V-T6, V-T9, V-T10, V-T15, V-T16, V-T20 to V-T23, V-T26, V-T27, V-T35. -/
theorem test_toaq_words :
    [0x3FF0000000000000#64, 0xBFF0000000000000#64, 0x4024000000000000#64, 0xC024000000000000#64,
     0x3FB999999999999A#64, 0xBFB999999999999A#64, 0x3F60000000000000#64, 0xBF60000000000000#64,
     0xBF78000000000000#64, 0xBF73333333333333#64, 0x3F5FFFFFFFFFFFFF#64, 0xBF5FFFFFFFFFFFFF#64,
     0x4023FF0000000000#64, 0xC023FF0000000000#64, 0x4029000000000000#64].map qiOf =
    [some 256, some (-255), some 2560, some (-2559), some 26, some (-25), some 1, some 0,
     some (-1), some 0, some 1, some 0, some 2560, some (-2559), none] := by decide +kernel

/-- V-T4 and V-T30: the bytes in wire order, and the absent operand. -/
theorem test_toaq_responses :
    answer cfg148 (.toaq (some 0xBFF0000000000000#64)) =
      some { dataless 0x00#8 with q := some 0xFF01#16, qHi := some 0xFF#8, qLo := some 0x01#8 } ∧
    answer cfg148 (.toaq none) = some (dataless 0x01#8) := by decide +kernel

/-- V-D2, V-D4. -/
theorem test_toadq :
    answer cfg148 (.toadq 0x0A#8 0x00#8) = some (dataless 0x00#8) ∧
    answer cfg148 (.toadq 0x80#8 0x00#8) = some (dataless 0x00#8) := by decide

/-! ## The host's side -/

/-- V-T9, V-T10, V-T21, V-T2, V-T24 (4.94e-324): decimal literals and their patterns; then one past the range. -/
theorem test_decimal_literals :
    nearestPattern false 1 10 = 0x3FB999999999999A#64 ∧ nearestPattern true 1 10 = 0xBFB999999999999A#64 ∧
    nearestPattern true 46875 (10 ^ 7) = 0xBF73333333333333#64 ∧
    nearestPattern true 0 1 = 0x8000000000000000#64 ∧ nearestPattern false 494 (10 ^ 326) = 1#64 ∧
    nearestPattern false (10 ^ 309) 1 = 0x7FF0000000000000#64 := by decide +kernel

/-- Program P3, lines of each operand form (with cfgSmall), and a line whose lane is of the other type. -/
theorem test_text_lines :
    lineOfChars "SBIT2UBIT [127, -127, 0x80]".toList =
      some (.sbit2ubit (.lanes [.decimal 127, .decimal (-127), .byte 0x80#8])) ∧
    lineOfChars "BURSTCHK #148".toList = some (.burstchk (.zeros 148)) ∧
    lineOfChars "HBIT2SBIT r2".toList = some (.hbit2sbit (.result 2)) ∧
    lineOfChars "TOAQ -0.0046875".toList = some (.toaq (.decimal true 46875 7)) ∧
    lineOfChars "TOADQ 0xFF, 0x01".toList = some (.toadq 0xFF#8 0x01#8) ∧
    lineOfChars "TOACHK -".toList = some (.toachk .absent) ∧
    lineOfChars "op 0x00".toList = some (.rawOp 0x00#8) ∧
    lineOfChars "TOAQ".toList = none ∧ lineOfChars "BURSTCHK [1,".toList = none := by decide +kernel

/-- Program P1, requests 0 and 1: `rK` is the `seq_out` of response `K`. -/
theorem test_text_program :
    (match runText ["UBIT2SBIT [0, 128, 0xFF]", "SBIT2UBIT r0"] (unit cfg148) with
      | .next a => a.1.map (fun r => (presentFields r, r.seqOut))
      | .fault _ => []
      | .refused _ => []) =
    [([.seqOut], some [0x7F#8, 0xFF#8, 0x81#8]), ([.seqOut], some [0x00#8, 0x80#8, 0xFE#8])] := by
  decide +kernel

/-- Program P2, request 3: TOAENC of 12.5 asks TOACHK alone. -/
theorem test_toaenc_out_of_range :
    (match toaenc (some 0x4029000000000000#64) (unit cfg148) with
      | .next a => a.1
      | .fault _ => []
      | .refused _ => []) = [{ dataless 0x00#8 with valid := some false }] := by decide +kernel

/-! ## Witnesses: the hypotheses of the statements can be met, clause by clause -/

theorem witness_reserved_ranges :
    ∀ op ∈ [0x00#8, 0x0F#8, 0x14#8, 0x1F#8, 0x21#8, 0x2F#8, 0x33#8, 0x3F#8, 0x40#8, 0xFF#8],
      (asked cfgSmall (Request.blank op)).request = some (Request.blank op) ∧
      (op ≤ 0x0F#8 ∨ (0x14#8 ≤ op ∧ op ≤ 0x1F#8) ∨ (0x21#8 ≤ op ∧ op ≤ 0x2F#8) ∨
        (0x33#8 ≤ op ∧ op ≤ 0x3F#8) ∨ 0x40#8 ≤ op) := by decide

theorem witness_sameRead :
    sameRead (Request.blank 0x10#8) { Request.blank 0x10#8 with seq := [1#8], toa := 1#64, wHi := 1#8 } ∧
    sameRead (Request.blank 0x31#8) { Request.blank 0x31#8 with seqPresent := true, toa := 1#64, wLo := 1#8 } ∧
    sameRead (Request.blank 0x32#8) { Request.blank 0x32#8 with seqPresent := true, toaPresent := true } ∧
    sameRead (Request.blank 0x00#8) { Request.blank 0x00#8 with seqPresent := true, wLo := 1#8 } := by
  simp [sameRead, Request.blank]

theorem witness_step_runs_decoded :
    (asked cfgSmall (encode (.toadq 1#8 2#8))).request = some (encode (.toadq 1#8 2#8)) ∧
    decode (encode (.toadq 1#8 2#8)) = .ok (.toadq 1#8 2#8) := ⟨rfl, rfl⟩

theorem witness_idle : State.reset.request = none := rfl

theorem witness_same_configuration :
    (unit cfgSmall).cfg = (asked cfgSmall (Request.blank 0x20#8)).cfg ∧
    step ((unit cfgSmall).issue (Request.blank 0x20#8)) = .next (delivered (unit cfgSmall) (okValid false)) :=
  ⟨rfl, rfl⟩

theorem witness_step_next :
    step (asked cfgSmall (Request.blank 0x20#8)) = .next (delivered (unit cfgSmall) (okValid false)) := rfl

theorem witness_error_status :
    stepAnswer (asked cfgSmall (Request.blank 0x10#8)) = some (dataless 0x02#8) ∧
    (dataless 0x02#8).status ≠ 0x00#8 := by decide

/-- One request for each clause of the status statement, in its order. -/
theorem witness_status_clauses :
    [Request.blank 0x33#8, Request.blank 0x13#8,
     { Request.blank 0x20#8 with seqPresent := true, seq := [0#8, 0#8, 0#8, 0#8] },
     { Request.blank 0x12#8 with seqPresent := true, seq := [0#8, 0x80#8, 0#8] },
     { Request.blank 0x13#8 with seqPresent := true, seq := [2#8] },
     { Request.blank 0x31#8 with toaPresent := true, toa := 0x4024000000000001#64 },
     { Request.blank 0x31#8 with toaPresent := true, toa := 0x4024000000000000#64 }].map
      (fun r => (stepAnswer (asked cfgSmall r)).map (fun rsp => rsp.status)) =
    [some 0x03#8, some 0x02#8, some 0x04#8, some 0x02#8, some 0x02#8, some 0x01#8, some 0x00#8] := by
  decide +kernel

theorem witness_invariant :
    Inv (asked cfgSmall (Request.blank 0x20#8)) ∧
    step (asked cfgSmall (Request.blank 0x20#8)) = .next (delivered (unit cfgSmall) (okValid false)) := by
  refine ⟨⟨by decide, ?_⟩, rfl⟩
  intro r hr
  obtain rfl : okValid true = r := by simpa [asked] using hr
  simp [goodResponse]

theorem witness_request_in_flight :
    (asked cfgSmall (Request.blank 0x20#8)).request = some (Request.blank 0x20#8) := rfl

theorem witness_requests_in_order :
    (match runProgram [Request.blank 0x00#8, Request.blank 0x20#8] (unit cfgSmall) with
      | .next a => a.1
      | .fault _ => []
      | .refused _ => []) = [raise .illegalOp, okValid false] := by decide

theorem witness_two_instances :
    (0 : Nat) ≠ 1 ∧
    stepInstance 0 [asked cfgSmall (Request.blank 0x20#8), unit cfg148] =
      .next [delivered (unit cfgSmall) (okValid false), unit cfg148] := ⟨by decide, rfl⟩

theorem witness_capacity_boundary :
    cfgSmall.maxSeqLen.admits 3 = true ∧ cfgSmall.maxSeqLen.admits 4 = false ∧
    cfg148.maxSeqLen.admits 255 = true := by decide

theorem witness_lanes_and_responses :
    ([0xFF#8] : List Lane)[0]? = some 0xFF#8 ∧ 0x80#8 ∉ ([0x81#8, 0x7F#8] : List Lane) ∧
    0x80#8 ∈ ([0x7F#8, 0x80#8] : List Lane) ∧
    (∀ lane ∈ ([0x00#8, 0x01#8] : List Lane), lane = 0x00#8 ∨ lane = 0x01#8) ∧
    ∃ lane ∈ ([0x01#8, 0x02#8] : List Lane), 2 ≤ lane.toNat := by decide

theorem witness_burst_lengths :
    cfgSmall.wf = true ∧ [0#8, 0#8].length = cfgSmall.normalLen ∧ [0#8, 0#8, 0#8].length = cfgSmall.edgeLen ∧
    [0#8, 1#8].length = [5#8, 0x80#8].length := by decide

/-- A tie of the rounding: 2^53 + 1 units lies halfway between 2^53 and 2^53 + 2. -/
theorem witness_rounding_tie :
    fl (2 ^ 53 + 1) = 2 ^ 53 ∧ (2 ^ 53 + 2 : Int) ≠ fl (2 ^ 53 + 1) ∧
    (2 ^ 53 + 2 : Int).natAbs = (2 ^ 52 + 1) * 2 ^ 1 := by decide +kernel

theorem witness_accepted_toa :
    acceptedToa (some 0x3FF0000000000000#64) = some (unitsPerOne : Int) := by decide +kernel

theorem real_minus_ten : toaReal 0xC024000000000000#64 = -10 := by
  rw [toaReal_normal (neg := true) (e := 1026) (f := 1125899906842624) (by decide) (by decide) (by decide)
    (by decide)]
  norm_num

theorem real_ten : toaReal 0x4024000000000000#64 = 10 := by
  rw [toaReal_normal (neg := false) (e := 1026) (f := 1125899906842624) (by decide) (by decide) (by decide)
    (by decide)]
  norm_num

theorem real_minus_half_lsb : toaReal 0xBF60000000000000#64 = -1 / 512 := by
  rw [toaReal_normal (neg := true) (e := 1014) (f := 0) (by decide) (by decide) (by decide) (by decide)]
  norm_num

theorem real_half_lsb : toaReal 0x3F60000000000000#64 = 1 / 512 := by
  rw [toaReal_normal (neg := false) (e := 1014) (f := 0) (by decide) (by decide) (by decide) (by decide)]
  norm_num

theorem real_below_minus_half_lsb :
    toaReal 0xBF60000000000001#64 = -(2 ^ 52 + 1) / 2 ^ 61 := by
  rw [toaReal_normal (neg := true) (e := 1014) (f := 1) (by decide) (by decide) (by decide) (by decide)]
  norm_num

/-- R157: `t*` is `2^-9 - 2^-62`. -/
theorem real_tStar : toaReal tStar = 1 / 2 ^ 9 - 1 / 2 ^ 62 := by
  rw [toaReal_normal (neg := false) (e := 1013) (f := 4503599627370495) (by decide) (by decide) (by decide)
    (by decide)]
  norm_num

theorem witness_toa_bounds : toaInRange 0xC024000000000000#64 ∧ toaInRange 0x4024000000000000#64 := by
  refine ⟨⟨by decide, ?_, ?_⟩, ⟨by decide, ?_, ?_⟩⟩ <;> norm_num [real_minus_ten, real_ten]

/-- Boundary operands of the clauses about the word: -1/512, the next operand below it, 1/512 and `t*`. -/
theorem witness_toa_clauses :
    (toaInRange 0xBF60000000000000#64 ∧ -1 / 512 ≤ toaReal 0xBF60000000000000#64 ∧
      (0xBF60000000000000#64 : ToaBits) ≠ tStar) ∧
    (toaInRange 0xBF60000000000001#64 ∧ toaReal 0xBF60000000000001#64 < -1 / 512) ∧
    (toaInRange 0x3F60000000000000#64 ∧ 1 / 512 ≤ toaReal 0x3F60000000000000#64) ∧
    (toaInRange tStar ∧ 0 < toaReal tStar ∧ toaReal tStar < 1 / 512) := by
  refine ⟨⟨⟨by decide, ?_, ?_⟩, ?_, by decide⟩, ⟨⟨by decide, ?_, ?_⟩, ?_⟩, ⟨⟨by decide, ?_, ?_⟩, ?_⟩,
    ⟨by decide, ?_, ?_⟩, ?_, ?_⟩ <;>
    norm_num [real_minus_half_lsb, real_half_lsb, real_below_minus_half_lsb, real_tStar]

theorem witness_toaq_word :
    toaqWord (unit cfg148) 0x4024000000000000#64 = some 0x0A00#16 := by decide +kernel

theorem witness_exec_next :
    exec (.toadq 1#8 2#8) (unit cfg148) = .next (delivered (unit cfg148) (dataless 0x00#8)) := rfl

theorem witness_message_length : 8 ≤ (List.replicate 8 0#8 : List Byte).length := by decide

theorem witness_present_fields :
    (okValid true).valid = some true ∧ (okQ 0x0A01#16).q = some 0x0A01#16 ∧
    (okQ 0x0A01#16).qHi = some 0x0A#8 ∧ (okQ 0x0A01#16).qLo = some 0x01#8 ∧ (okSeq []).seqOut = some [] ∧
    { raise .domain with toaOut := some 1#64 }.toaOut = some 1#64 ∧
    (raise .domain).valid = none ∧ (raise .domain).q = none ∧ (raise .domain).qHi = none ∧
    (raise .domain).qLo = none ∧ (raise .domain).seqOut = none ∧ (raise .domain).toaOut = none := by decide

end Sys2Proof.Tests
end

section
/-!
The rounding of Binary64.lean is to nearest, ties to even (spec/00_scope.md R13), and the bounds that follow from it
(spec/42_toa_quantizer.md R156).
-/

namespace Sys2Proof.Machine

/-- A multiple `c` of the divisor other than the quotient and its successor lies a whole divisor further out. -/
theorem multiple_position (c q d : Nat) :
    c = q ∨ c = q + 1 ∨ c * d + d ≤ q * d ∨ q * d + 2 * d ≤ c * d := by
  rcases lt_trichotomy c q with h | h | h
  · exact .inr (.inr (.inl (by simpa [Nat.succ_mul] using Nat.mul_le_mul_right d h)))
  · exact .inl h
  · rcases Nat.lt_or_ge (q + 1) c with h' | h'
    · exact .inr (.inr (.inr (by simpa [Nat.add_mul, two_mul, add_assoc] using Nat.mul_le_mul_right d h')))
    · exact .inr (.inl (by omega))

/-- No multiple of the divisor is nearer than the rounded quotient's, and when another one is as near the rounded
quotient is even. -/
theorem roundHalfEven_nearest {n d : Nat} (hd : 0 < d) (c : Nat) :
    |((roundHalfEven n d * d : Nat) : Int) - n| ≤ |((c * d : Nat) : Int) - n| ∧
    (|((roundHalfEven n d * d : Nat) : Int) - n| = |((c * d : Nat) : Int) - n| →
      c = roundHalfEven n d ∨ roundHalfEven n d % 2 = 0) := by
  have hn : n / d * d + n % d = n := Nat.div_add_mod' n d
  have hr : n % d < d := Nat.mod_lt n hd
  have hsucc : (n / d + 1) * d = n / d * d + d := Nat.succ_mul _ _
  simp only [Int.abs_eq_natAbs]
  rcases roundHalfEven_cases (n := n) hd with ⟨hq, hle, heven⟩ | ⟨hq, hle, heven⟩ <;> rw [hq] <;>
    rcases multiple_position c (n / d) d with rfl | rfl | hc | hc <;> omega

/-- A magnitude with a 53-bit significand, in units of 2^-1074 (R13). -/
def HasSignificand (n : Nat) : Prop :=
  ∃ m k : Nat, m < 2 ^ 53 ∧ n = m * 2 ^ k

/-- A magnitude whose 53-bit significand, normalised where it is not subnormal, is even (R13). -/
def HasEvenSignificand (n : Nat) : Prop :=
  ∃ m k : Nat, m < 2 ^ 53 ∧ (k = 0 ∨ 2 ^ 52 ≤ m) ∧ m % 2 = 0 ∧ n = m * 2 ^ k

theorem hasSignificand_zero : HasSignificand 0 := ⟨0, 0, by norm_num, by norm_num⟩

/-- A magnitude whose last place lies above the unit has all its 53 bits. -/
theorem two_pow_ulpShift_le {m : Nat} (h : ulpShift m ≠ 0) : 2 ^ (52 + ulpShift m) ≤ m := by
  have hm : m ≠ 0 := by rintro rfl; exact h (by decide)
  rw [← Nat.le_log2 hm]
  unfold ulpShift at *
  omega

/-- The rounded quotient has at most 53 bits, or is 2^53 after a carry out of them. -/
theorem roundedSignificand_le (m : Nat) : roundHalfEven m (2 ^ ulpShift m) ≤ 2 ^ 53 := by
  have hd : 0 < 2 ^ ulpShift m := by positivity
  have hq : m / 2 ^ ulpShift m < 2 ^ 53 := by
    rw [Nat.div_lt_iff_lt_mul hd, ← pow_add]
    exact lt_two_pow_ulpShift m
  rcases roundHalfEven_cases (n := m) hd with ⟨h, _⟩ | ⟨h, _⟩ <;> omega

/-- Above the unit the rounded quotient is normalised. -/
theorem le_roundedSignificand {m : Nat} (h : ulpShift m ≠ 0) :
    2 ^ 52 ≤ roundHalfEven m (2 ^ ulpShift m) := by
  have hd : 0 < 2 ^ ulpShift m := by positivity
  have hq : 2 ^ 52 ≤ m / 2 ^ ulpShift m := by
    rw [Nat.le_div_iff_mul_le hd, ← pow_add]
    exact two_pow_ulpShift_le h
  rcases roundHalfEven_cases (n := m) hd with ⟨h, _⟩ | ⟨h, _⟩ <;> omega

/-- A carry out of the significand is one more on the exponent. -/
theorem carry_mul_two_pow (k : Nat) : 2 ^ 53 * 2 ^ k = 2 ^ 52 * 2 ^ (k + 1) := by
  ring

theorem flMag_hasSignificand (m : Nat) : HasSignificand (flMag m) := by
  rcases (roundedSignificand_le m).lt_or_eq with hlt | heq
  · exact ⟨_, _, hlt, rfl⟩
  · exact ⟨2 ^ 52, ulpShift m + 1, by norm_num, by rw [flMag, heq, carry_mul_two_pow]⟩

theorem flMag_hasEvenSignificand {m : Nat} (h : ulpShift m ≠ 0)
    (heven : roundHalfEven m (2 ^ ulpShift m) % 2 = 0) : HasEvenSignificand (flMag m) := by
  rcases (roundedSignificand_le m).lt_or_eq with hlt | heq
  · exact ⟨_, _, hlt, .inr (le_roundedSignificand h), heven, rfl⟩
  · exact ⟨2 ^ 52, ulpShift m + 1, by norm_num, .inr le_rfl, by norm_num,
      by rw [flMag, heq, carry_mul_two_pow]⟩

/-- A number with a 53-bit significand is a multiple of `2^k`, or lies below every normalised one of that
exponent. -/
theorem HasSignificand.dvd_or_lt {w : Nat} (hw : HasSignificand w) (k : Nat) :
    2 ^ k ∣ w ∨ w < 2 ^ (52 + k) := by
  obtain ⟨a, j, ha, rfl⟩ := hw
  rcases Nat.lt_or_ge j k with hj | hj
  · right
    calc a * 2 ^ j < 2 ^ 53 * 2 ^ j := Nat.mul_lt_mul_of_pos_right ha (by positivity)
      _ = 2 ^ (53 + j) := (pow_add 2 53 j).symm
      _ ≤ 2 ^ (52 + k) := Nat.pow_le_pow_right (by norm_num) (by omega)
  · exact .inl (Dvd.dvd.mul_left (Nat.pow_dvd_pow 2 hj) a)

/-- R13 on magnitudes: no number with a 53-bit significand is nearer than the rounded one, and where another one
is as near the rounded significand is even. -/
theorem flMag_nearest (m : Nat) {w : Nat} (hw : HasSignificand w) :
    |(flMag m : Int) - m| ≤ |(w : Int) - m| ∧
    (|(flMag m : Int) - m| = |(w : Int) - m| → w ≠ flMag m → HasEvenSignificand (flMag m)) := by
  have hd : 0 < 2 ^ ulpShift m := by positivity
  by_cases hk : ulpShift m = 0
  · have hexact : flMag m = m := flMag_of_dvd (by simp [hk])
    simp only [hexact, sub_self, abs_zero, abs_nonneg, true_and]
    intro htie hne
    exact absurd (abs_eq_zero.mp htie.symm) (by omega)
  rcases hw.dvd_or_lt (ulpShift m) with ⟨c, rfl⟩ | hlt
  · obtain ⟨hnear, htie⟩ := roundHalfEven_nearest (n := m) hd c
    rw [Nat.mul_comm _ c]
    refine ⟨hnear, fun heq hne => flMag_hasEvenSignificand hk ((htie heq).resolve_left ?_)⟩
    rintro rfl
    exact hne rfl
  · have hm := two_pow_ulpShift_le hk
    have hnear : |(flMag m : Int) - m| ≤ |((2 ^ (52 + ulpShift m) : Nat) : Int) - m| := by
      rw [pow_add]
      exact (roundHalfEven_nearest (n := m) hd (2 ^ 52)).1
    generalize 2 ^ (52 + ulpShift m) = b at *
    rw [Int.abs_eq_natAbs, Int.abs_eq_natAbs] at *
    constructor <;> omega

/-- R13 for a non-negative real and a candidate of either sign. -/
theorem fl_natCast_nearest (m : Nat) {v : Int} (hv : HasSignificand v.natAbs) :
    |fl m - m| ≤ |v - m| ∧
    (v ≠ fl m → |fl m - m| = |v - m| → HasEvenSignificand (fl m).natAbs) := by
  rw [fl_natCast, Int.natAbs_natCast]
  obtain ⟨hnear, htie⟩ := flMag_nearest m hv
  obtain ⟨hzero, -⟩ := flMag_nearest m hasSignificand_zero
  rcases Int.eq_nat_or_neg v with ⟨w, rfl | rfl⟩
  · exact ⟨hnear, fun hne heq => htie heq (by simpa using hne)⟩
  · rw [Int.natAbs_neg, Int.natAbs_natCast] at hnear htie
    simp only [Int.abs_eq_natAbs] at *
    exact ⟨by omega, fun hne heq => htie (by omega) (by omega)⟩

theorem natAbs_fl (u : Int) : (fl u).natAbs = flMag u.natAbs := by
  rcases Int.eq_nat_or_neg u with ⟨m, rfl | rfl⟩ <;> simp [fl_neg, fl_natCast]

/-- R13: `fl` rounds to nearest, ties to even. A negative real is its opposite's mirror image. -/
theorem fl_nearest (u : Int) {v : Int} (hv : HasSignificand v.natAbs) :
    |fl u - u| ≤ |v - u| ∧
    (v ≠ fl u → |fl u - u| = |v - u| → HasEvenSignificand (fl u).natAbs) := by
  rcases Int.eq_nat_or_neg u with ⟨m, rfl | rfl⟩
  · exact fl_natCast_nearest m hv
  · obtain ⟨hnear, htie⟩ := fl_natCast_nearest m (v := -v) (by rwa [Int.natAbs_neg])
    have hmirror (x : Int) : |x - -(m : Int)| = |-x - m| := by
      rw [← abs_neg]; congr 1; ring
    rw [fl_neg, hmirror, hmirror, neg_neg, Int.natAbs_neg]
    exact ⟨hnear, fun hne heq => htie (by omega) heq⟩

/-- Rounding does not cross a number with a 53-bit significand from below. -/
theorem fl_le_of_le {u b : Int} (hb : HasSignificand b.natAbs) (h : u ≤ b) : fl u ≤ b := by
  have hnear := (fl_nearest u hb).1
  rw [Int.abs_eq_natAbs, Int.abs_eq_natAbs] at hnear
  omega

/-- Rounding does not cross a number with a 53-bit significand from above. -/
theorem le_fl_of_le {u b : Int} (hb : HasSignificand b.natAbs) (h : b ≤ u) : b ≤ fl u := by
  have hnear := (fl_nearest u hb).1
  rw [Int.abs_eq_natAbs, Int.abs_eq_natAbs] at hnear
  omega

/-- Settles O30: the magnitudes are rounded to nearest among the multiples of their last place, and no number with
a 53-bit significand lies off these multiples except below the normalised range. -/
theorem roundingIsToNearestEven : Obligations.RoundingIsToNearestEven := fun u =>
  ⟨natAbs_fl u ▸ flMag_hasSignificand u.natAbs, fun _ hv => fl_nearest u hv⟩

end Sys2Proof.Machine
end

section
/-!
The permitted configurations (spec/00_scope.md R8) and the machine's invariant: it holds after reset, and each step
keeps it since each response the machine delivers is a good one.
-/

namespace Sys2Proof

/-- A capacity admits every shorter sequence with a longer one. -/
theorem SeqLimit.admits_of_le {limit : SeqLimit} {n k : Nat} (hk : limit.admits k = true) (h : n ≤ k) :
    limit.admits n = true := by
  cases limit with
  | unbounded => rfl
  | atMost cap =>
    simp only [SeqLimit.admits, decide_eq_true_eq] at *
    exact h.trans hk

/-- A permitted configuration admits both burst lengths (R8). -/
theorem Cfg.admits_burst_of_wf {cfg : Cfg} (hwf : cfg.wf = true) {n : Nat}
    (h : n = cfg.normalLen ∨ n = cfg.edgeLen) : cfg.maxSeqLen.admits n = true :=
  SeqLimit.admits_of_le hwf (by omega)

/-- Every instantiation is one R8 permits. -/
theorem Config.cfg_wf : Config.cfg.wf = true := by
  unfold Cfg.wf Config.cfg Config.pMaxSeqLen
  cases Config.capacityMargin with
  | none => rfl
  | some k => simp [SeqLimit.admits]

end Sys2Proof

namespace Sys2Proof.Machine

/-- What the burst check compares (R130, R132). -/
theorem permittedLength_iff (cfg : Cfg) (n : Nat) :
    permittedLength cfg n = true ↔ n = cfg.normalLen ∨ n = cfg.edgeLen := by
  simp [permittedLength]

/-- BURSTCHK of a burst that fits compares its length (R130). -/
theorem burstAnswer_of_fits {cfg : Cfg} {seq : List Lane} (h : cfg.maxSeqLen.admits seq.length = true) :
    burstAnswer cfg (some seq) = okValid (permittedLength cfg seq.length) := by
  simp [burstAnswer, overCapacity_eq, h]

/-- A sequence that passes the capacity check is no longer than a finite capacity (R204). -/
theorem length_le_of_not_overCapacity {cfg : Cfg} {n cap : Nat} (h : overCapacity cfg n = false)
    (hcap : cfg.maxSeqLen = .atMost cap) : n ≤ cap := by
  simpa [overCapacity, hcap] using h

theorem exec_burstchk (seq : Option (List Lane)) (s : State) :
    exec (.burstchk seq) s = .next (s.respond (burstAnswer s.cfg seq)) := rfl

/-- Delivering a response, in the terms of the statements. -/
theorem respond_eq_delivered (s : State) (r : Response) : s.respond r = Safety.delivered s r := rfl

/-- The response of a check, in the terms of the statements. -/
theorem okValid_eq_dataless (v : Bool) : okValid v = { Safety.dataless 0x00#8 with valid := some v } := rfl

/-- Settles O29: the capacity check of BURSTCHK passes, so the answer is the comparison of the length. -/
theorem everyValidBurstFits : Obligations.EveryValidBurstFits := by
  intro s seq hwf hlen
  rw [exec_burstchk, burstAnswer_of_fits (Cfg.admits_burst_of_wf hwf hlen),
    (permittedLength_iff _ _).mpr hlen, okValid_eq_dataless, respond_eq_delivered]

/-- A whole number of halves with a 53-bit numerator has a 53-bit significand. -/
theorem hasSignificand_mul_unitsPerHalf {m : Int} (h : m.natAbs < 2 ^ 53) :
    HasSignificand (m * unitsPerHalf).natAbs :=
  ⟨m.natAbs, 1073, h, by rw [Int.natAbs_mul, Int.natAbs_natCast, unitsPerHalf]⟩

theorem unitsPerHalf_pos : 0 < unitsPerHalf := by
  unfold unitsPerHalf
  positivity

theorem unitsPerOne_eq : unitsPerOne = 2 * unitsPerHalf := by
  rw [unitsPerOne, unitsPerHalf, ← pow_succ']

/-- Truncating `m` halves to a whole number. -/
theorem mul_unitsPerHalf_tdiv (m : Int) : (m * unitsPerHalf).tdiv unitsPerOne = m.tdiv 2 := by
  have hpos : (0 : Int) < unitsPerHalf := Int.natCast_pos.mpr unitsPerHalf_pos
  rw [unitsPerOne_eq, Nat.cast_mul, Int.mul_tdiv_mul_of_pos_left _ _ hpos]
  rfl

/-- The arithmetic of R153 in one expression. -/
theorem quantize_eq (t : Int) : quantize t = (fl (fl (t * 256) + unitsPerHalf)).tdiv unitsPerOne := by
  rw [quantize]

/-- R156: the word of an accepted ToA is at most 2560 and at least -2559. Neither rounding crosses the bound of its
operand, which has a 53-bit significand, and truncation toward zero brings -2559.5 to -2559. -/
theorem quantize_bounds {t : Int} (hlo : -(10 * unitsPerOne : Int) ≤ t) (hhi : t ≤ 10 * unitsPerOne) :
    -2559 ≤ quantize t ∧ quantize t ≤ 2560 := by
  have hone : (unitsPerOne : Int) = 2 * unitsPerHalf := by rw [unitsPerOne_eq]; push_cast; rfl
  have hpos : (0 : Int) < unitsPerOne := by have := unitsPerHalf_pos; omega
  have hxlo : -5120 * unitsPerHalf ≤ fl (t * 256) :=
    le_fl_of_le (hasSignificand_mul_unitsPerHalf (by norm_num)) (by omega)
  have hxhi : fl (t * 256) ≤ 5120 * unitsPerHalf :=
    fl_le_of_le (hasSignificand_mul_unitsPerHalf (by norm_num)) (by omega)
  have hylo : -5119 * unitsPerHalf ≤ fl (fl (t * 256) + unitsPerHalf) :=
    le_fl_of_le (hasSignificand_mul_unitsPerHalf (by norm_num)) (by omega)
  have hyhi : fl (fl (t * 256) + unitsPerHalf) ≤ 5121 * unitsPerHalf :=
    fl_le_of_le (hasSignificand_mul_unitsPerHalf (by norm_num)) (by omega)
  have hlower := Int.tdiv_le_tdiv hpos hylo
  have hupper := Int.tdiv_le_tdiv hpos hyhi
  rw [mul_unitsPerHalf_tdiv] at hlower hupper
  rw [quantize_eq]
  exact ⟨hlower, hupper⟩

/-- A word in range is its own 16-bit image (R156). -/
theorem toInt_q8OfInt {qi : Int} (hlo : -2559 ≤ qi) (hhi : qi ≤ 2560) : (q8OfInt qi).toInt = qi := by
  simp only [q8OfInt, BitVec.toInt_ofInt, Int.bmod_def]
  omega

end Sys2Proof.Machine

namespace Sys2Proof.Safety

open Sys2Proof.Machine

/-! Each kind of response the operations build is a good one. -/

theorem goodResponse_raise (cfg : Cfg) (st : Status) : goodResponse cfg (raise st) := by
  have hcode : st.code ≤ 0x04#8 := by cases st <;> decide
  simp [goodResponse, hcode]

theorem goodResponse_okNoToa (cfg : Cfg) : goodResponse cfg okNoToa :=
  goodResponse_raise cfg .ok

theorem goodResponse_okValid (cfg : Cfg) (v : Bool) : goodResponse cfg (okValid v) := by
  simp [goodResponse]

theorem goodResponse_okSeq {cfg : Cfg} {l : List Lane} (h : overCapacity cfg l.length = false) :
    goodResponse cfg (okSeq l) := by
  have hcap (l' : List Lane) (cap : Nat) : l = l' → cfg.maxSeqLen = .atMost cap → l'.length ≤ cap := by
    rintro rfl
    exact length_le_of_not_overCapacity h
  simpa [goodResponse] using hcap

theorem goodResponse_okQ (cfg : Cfg) {w : Q8} (hlo : -2559 ≤ w.toInt) (hhi : w.toInt ≤ 2560) :
    goodResponse cfg (okQ w) := by
  simp [goodResponse, hlo, hhi]

/-! So each operation answers with a good response. -/

theorem goodResponse_convert (cfg : Cfg) (dom : Lane → Bool) (f : Lane → Lane) (seq : Option (List Lane)) :
    goodResponse cfg (convert cfg dom f seq) := by
  rcases convert_cases cfg dom f seq with ⟨-, h⟩ | ⟨l, -, ⟨-, h⟩ | ⟨hfits, -, h⟩ | ⟨-, -, h⟩⟩ <;> rw [h]
  · exact goodResponse_raise cfg _
  · exact goodResponse_raise cfg _
  · exact goodResponse_okSeq (by rwa [List.length_map])
  · exact goodResponse_raise cfg _

theorem goodResponse_burstAnswer (cfg : Cfg) (seq : Option (List Lane)) :
    goodResponse cfg (burstAnswer cfg seq) := by
  rcases burstAnswer_cases cfg seq with ⟨-, h⟩ | ⟨l, -, ⟨-, h⟩ | ⟨-, h⟩⟩ <;> rw [h]
  · exact goodResponse_okValid cfg _
  · exact goodResponse_raise cfg _
  · exact goodResponse_okValid cfg _

theorem goodResponse_toaqAnswer (cfg : Cfg) (toa : Option ToaBits) : goodResponse cfg (toaqAnswer toa) := by
  rcases toaqAnswer_cases toa with ⟨-, h⟩ | ⟨t, ht, h⟩ <;> rw [h]
  · exact goodResponse_raise cfg _
  · obtain ⟨_, _, _, -, -, -, htlo, hthi⟩ := acceptedToa_eq_some ht
    obtain ⟨hlo, hhi⟩ := quantize_bounds htlo hthi
    have hword := toInt_q8OfInt hlo hhi
    exact goodResponse_okQ cfg (by rwa [hword]) (by rwa [hword])

theorem exec_delivers_goodResponse (i : Instr) (s : State) :
    ∃ r, exec i s = .next (s.respond r) ∧ goodResponse s.cfg r := by
  cases i with
  | ubit2sbit seq => exact ⟨_, rfl, goodResponse_convert ..⟩
  | sbit2ubit seq => exact ⟨_, rfl, goodResponse_convert ..⟩
  | sbit2hbit seq => exact ⟨_, rfl, goodResponse_convert ..⟩
  | hbit2sbit seq => exact ⟨_, rfl, goodResponse_convert ..⟩
  | burstchk seq => exact ⟨_, rfl, goodResponse_burstAnswer ..⟩
  | toachk toa => exact ⟨_, rfl, goodResponse_okValid ..⟩
  | toaq toa => exact ⟨_, rfl, goodResponse_toaqAnswer ..⟩
  | toadq wHi wLo => exact ⟨_, rfl, goodResponse_okNoToa _⟩

theorem serveRequest_delivers_goodResponse (r : Request) (s : State) :
    ∃ rsp, serveRequest r s = .next (s.respond rsp) ∧ goodResponse s.cfg rsp := by
  cases h : decode r with
  | error e => exact ⟨_, serveRequest_of_illegal h s, goodResponse_raise ..⟩
  | ok i =>
    rw [serveRequest_of_decode h]
    exact exec_delivers_goodResponse i s

/-- Delivering a good response under a permitted configuration establishes the invariant, whatever was on the ports
before. -/
theorem inv_respond {s : State} {r : Response} (hwf : s.cfg.wf = true) (hgood : goodResponse s.cfg r) :
    Inv (s.respond r) := by
  refine ⟨hwf, fun r' hr' => ?_⟩
  obtain rfl : r = r' := by simpa using hr'
  exact hgood

/-- Settles O13: an idle step keeps the state, and any other delivers a good response under the same
configuration. -/
theorem everyStepKeepsTheInvariant : Obligations.EveryStepKeepsTheInvariant := by
  intro s t hinv hstep
  rcases step_cases s with ⟨-, hidle⟩ | ⟨r, rsp, -, hserve, hnext⟩
  · obtain rfl : s = t := Host.Outcome.next.inj (hidle.symm.trans hstep)
    exact hinv
  · obtain ⟨hwf, -⟩ := hinv
    obtain ⟨rsp', hserve', hgood⟩ := serveRequest_delivers_goodResponse r s.takeRequest
    have ht : t = s.takeRequest.respond rsp' :=
      Host.Outcome.next.inj (hstep.symm.trans (hnext.trans (hserve.symm.trans hserve')))
    exact ht ▸ inv_respond hwf hgood

/-- Settles O14: the instantiated configuration is a permitted one, and no response exists after reset. -/
theorem resetHasTheInvariant : Obligations.ResetHasTheInvariant :=
  ⟨Config.cfg_wf, fun r hr => by simp at hr⟩

end Sys2Proof.Safety
end

section
/-!
The state between operations (spec/10_state.md): serving an issued request depends on the configuration and on the
fields its operation reads (R20, R22), and changes neither the configuration nor, in an operation, the input port
(R25, R47); reset (R28); and how the host reads a response (R24).
-/

namespace Sys2Proof

/-- The sequence operand is settled by the presence bit and, where that is 1, the lanes (R22). -/
theorem Request.seqOperand_congr {a b : Request} (hpresent : a.seqPresent = b.seqPresent)
    (hseq : a.seqPresent = true → a.seq = b.seq) : a.seqOperand = b.seqOperand := by
  unfold Request.seqOperand
  rw [← hpresent]
  split
  · next h => rw [hseq h]
  · rfl

/-- The ToA operand is settled by the presence bit and, where that is 1, the pattern (R22). -/
theorem Request.toaOperand_congr {a b : Request} (hpresent : a.toaPresent = b.toaPresent)
    (htoa : a.toaPresent = true → a.toa = b.toa) : a.toaOperand = b.toaOperand := by
  unfold Request.toaOperand
  rw [← hpresent]
  split
  · next h => rw [htoa h]
  · rfl

/-- The decoder reads `op` and the fields its format names, and no other (R60, R62): a request with a reserved `op` is
rejected by that `op` alone. -/
theorem decode_eq_of_sameRead {a b : Request} (h : Safety.sameRead a b) : decode a = decode b := by
  obtain ⟨hop, hseqRead, htoaRead, hreceived⟩ := h
  have hseq (hm : a.op ∈ [0x10#8, 0x11#8, 0x12#8, 0x13#8, 0x20#8]) : a.seqOperand = b.seqOperand :=
    have ⟨hpresent, hlanes⟩ := hseqRead hm
    Request.seqOperand_congr hpresent hlanes
  have htoa (hm : a.op ∈ [0x30#8, 0x31#8]) : a.toaOperand = b.toaOperand :=
    have ⟨hpresent, hpattern⟩ := htoaRead hm
    Request.toaOperand_congr hpresent hpattern
  unfold decode
  rw [← hop]
  split
  · next h => rw [hseq (by simp [h])]
  · next h => rw [hseq (by simp [h])]
  · next h => rw [hseq (by simp [h])]
  · next h => rw [hseq (by simp [h])]
  · next h => rw [hseq (by simp [h])]
  · next h => rw [htoa (by simp [h])]
  · next h => rw [htoa (by simp [h])]
  · next h =>
    obtain ⟨hhi, hlo⟩ := hreceived h
    rw [hhi, hlo]
  · rfl

end Sys2Proof

namespace Sys2Proof.Machine

/-- Serving uses a request only through what it decodes to (R64). -/
theorem serveRequest_congr {a b : Request} (h : decode a = decode b) (s : State) :
    serveRequest a s = serveRequest b s := by
  simp only [serveRequest, h]

/-- A step after a request is issued serves that request, whatever was on the input port (R47). -/
theorem step_issue (s : State) (r : Request) : step (s.issue r) = serveRequest r s.takeRequest := rfl

/-- The configuration is all of a state that is left once its request is taken and a response delivered (R20). -/
theorem State.respond_takeRequest_of_cfg_eq {s t : State} (h : t.cfg = s.cfg) (rsp : Response) :
    t.takeRequest.respond rsp = s.takeRequest.respond rsp := by
  simp only [State.respond, State.takeRequest, h]

/-- Two units of one configuration serve an issued request alike, and end alike (R20, R48). -/
theorem step_issue_of_cfg_eq {s t : State} (h : t.cfg = s.cfg) (r : Request) :
    step (t.issue r) = step (s.issue r) := by
  obtain ⟨rsp, hs, hall⟩ := serveRequest_responds r s.takeRequest
  calc step (t.issue r)
      = .next (t.takeRequest.respond rsp) := hall t.takeRequest h
    _ = .next (s.takeRequest.respond rsp) := by rw [State.respond_takeRequest_of_cfg_eq h]
    _ = step (s.issue r) := hs.symm

/-- A step, idle or not, leaves the configuration as it was (R25). -/
theorem step_preserves_cfg {s t : State} (h : step s = .next t) : t.cfg = s.cfg := by
  rcases step_cases s with ⟨-, hidle⟩ | ⟨_, rsp, -, -, hserved⟩
  · obtain rfl : s = t := Host.Outcome.next.inj (hidle.symm.trans h)
    rfl
  · obtain rfl : s.takeRequest.respond rsp = t := Host.Outcome.next.inj (hserved.symm.trans h)
    simp

/-- Reading an absent value is refused under the given name (R24). -/
theorem orRefuse_of_eq_none {α : Type} {o : Option α} {why : Refusal} (h : o = none) :
    orRefuse o why = .refused why := by
  rw [h, orRefuse_none]

/-- Reading a present value gives it (R24). -/
theorem orRefuse_of_eq_some {α : Type} {o : Option α} {why : Refusal} (a : α) (h : o = some a) :
    orRefuse o why = .next a := by
  rw [h, orRefuse_some]

/-- Settles O4: the two requests decode alike, and the step serves what the issued request decodes to. -/
theorem unreadFieldsAreIgnored : Obligations.UnreadFieldsAreIgnored := by
  intro s a b hread
  rw [step_issue, step_issue]
  exact serveRequest_congr (decode_eq_of_sameRead hread) s.takeRequest

/-- Settles O8: an operation delivers a response that is a function of its operands and the configuration. -/
theorem operationsChangeOnlyTheResponse : Obligations.OperationsChangeOnlyTheResponse := by
  intro i s
  obtain ⟨r, hs, hall⟩ := exec_responds i s
  exact ⟨r, hs, fun old => ⟨_, hall { s with response := old } rfl, rfl, rfl, rfl⟩⟩

/-- Settles O10: reset is a matter of the ports, and every step keeps the configuration. -/
theorem configurationIsReadOnly : Obligations.ConfigurationIsReadOnly :=
  fun s => ⟨s.applyReset_cfg, fun _ h => step_preserves_cfg h⟩

/-- Settles O15: reset keeps the configuration, which is all that serving an issued request reads of a state. -/
theorem resetLeavesConfigurationAndNoResponse : Obligations.ResetLeavesConfigurationAndNoResponse :=
  ⟨rfl, fun s => ⟨rfl, step_issue_of_cfg_eq s.applyReset_cfg⟩⟩

/-- Settles O41: each of the six readers is `orRefuse` on its field. -/
theorem readingAnAbsentFieldIsRefused : Obligations.ReadingAnAbsentFieldIsRefused := fun _ =>
  ⟨orRefuse_of_eq_none, orRefuse_of_eq_some, orRefuse_of_eq_none, orRefuse_of_eq_some,
    orRefuse_of_eq_none, orRefuse_of_eq_some, orRefuse_of_eq_none, orRefuse_of_eq_some,
    orRefuse_of_eq_none, orRefuse_of_eq_some, orRefuse_of_eq_none, orRefuse_of_eq_some⟩

end Sys2Proof.Machine
end

section
/-!
The order of service (spec/20_memory.md R47, R48): issued requests are answered one by one, each by a function of the
request and the configuration. Side by side, instances step independently (R49, R217). Last, how the host carries a ToA
as bytes (R43, R44).
-/

namespace Sys2Proof.Machine

/-- A step with a request on the input port takes it and serves it (R47). -/
theorem step_of_request {s : State} {r : Request} (h : s.request = some r) :
    step s = serveRequest r s.takeRequest := by
  simp only [step, h]

/-- Settles O5: the step serves the request on the port, and serving it runs what it decodes to. -/
theorem stepRunsTheDecodedOperation : Obligations.StepRunsTheDecodedOperation := by
  intro s r i hrequest hdecode
  calc step s
      = serveRequest r s.takeRequest := step_of_request hrequest
    _ = exec i s.takeRequest := serveRequest_of_decode hdecode s.takeRequest

/-- One response answers a request in every unit of a configuration, whatever happened in it before (R48). -/
theorem step_issue_answers (cfg : Cfg) (r : Request) :
    ∃ rsp, ∀ s : State, s.cfg = cfg → step (s.issue r) = .next (s.takeRequest.respond rsp) := by
  obtain ⟨rsp, -, hall⟩ := serveRequest_responds r { cfg := cfg, request := none, response := none }
  exact ⟨rsp, fun s hcfg => hall s.takeRequest hcfg⟩

/-- Settles O9: one response serves both units, and the first one again, whose configuration is still the same. -/
theorem responseDependsOnRequestAndConfiguration : Obligations.ResponseDependsOnRequestAndConfiguration := by
  intro s t r hcfg
  obtain ⟨rsp, hstep⟩ := step_issue_answers s.cfg r
  exact ⟨s.takeRequest.respond rsp, t.takeRequest.respond rsp, _, rsp, hstep s rfl, rfl, hstep t hcfg.symm, rfl,
    hstep (s.takeRequest.respond rsp) rfl, rfl⟩

/-- Asking a unit gives the response of `opStep` in its configuration (R20, R47), and keeps that configuration. -/
theorem ask_eq_opStep (r : Request) (s : State) :
    ∃ rsp, opStep s.cfg r = .next rsp ∧ ask r s = .next (rsp, s.takeRequest.respond rsp) := by
  obtain ⟨rsp, hstep⟩ := step_issue_answers s.cfg r
  have hask (t : State) (hcfg : t.cfg = s.cfg) : ask r t = .next (rsp, t.takeRequest.respond rsp) := by
    simp [ask, hstep t hcfg]
  exact ⟨rsp, by simp [opStep, hask], hask s rfl⟩

/-- A program completes, its responses paired off with its requests in order, each as if asked alone (R47, R212). -/
theorem runProgram_answers (rs : List Request) (s : State) :
    ∃ out t, runProgram rs s = .next (out, t) ∧ t.cfg = s.cfg ∧
      List.Forall₂ (fun r rsp => opStep s.cfg r = .next rsp) rs out := by
  induction rs generalizing s with
  | nil => exact ⟨[], s, rfl, rfl, .nil⟩
  | cons r rs ih =>
    obtain ⟨rsp, halone, hask⟩ := ask_eq_opStep r s
    obtain ⟨out, t, hrest, hcfg, hout⟩ := ih (s.takeRequest.respond rsp)
    exact ⟨rsp :: out, t, by simp [runProgram, hask, hrest], hcfg, .cons halone hout⟩

/-- Settles O17: requests and responses are paired off, so they are as many, and at each position they match. -/
theorem requestsAreAnsweredInOrder : Obligations.RequestsAreAnsweredInOrder := by
  intro rs s
  obtain ⟨out, t, hrun, hcfg, hout⟩ := runProgram_answers rs s
  refine ⟨out, t, hrun, hout.length_eq.symm, hcfg, fun k r rsp hr hrsp => ?_⟩
  obtain ⟨hk, rfl⟩ := List.getElem?_eq_some_iff.mp hr
  obtain ⟨hk', rfl⟩ := List.getElem?_eq_some_iff.mp hrsp
  exact hout.get hk hk'

/-- Every step ends in a next state (R200, R212). -/
theorem step_goesOn (s : State) : Safety.goesOn s := by
  rcases step_cases s with ⟨-, hidle⟩ | ⟨_, _, -, -, hserved⟩
  · exact ⟨_, hidle⟩
  · exact ⟨_, hserved⟩

/-- An instance's step rewrites its own entry of the platform and no other (R49). -/
theorem stepInstance_eq_modify {stepTo : State → State} (hstep : ∀ s, step s = .next (stepTo s))
    (k : Nat) (units : List State) : stepInstance k units = .next (units.modify k stepTo) := by
  cases h : units[k]? with
  | none => simp [stepInstance, h, List.modify_eq_set_getElem?]
  | some s => simp [stepInstance, h, hstep, List.modify_eq_set_getElem?]

/-- Settles O18: a step goes on in every state, so it rewrites one entry, and rewriting two entries commutes. -/
theorem instancesDoNotInterfere : Obligations.InstancesDoNotInterfere := by
  intro units j k hjk
  choose stepTo hstep using step_goesOn
  simp only [stepInstance_eq_modify hstep, andThen_next]
  refine ⟨by rw [List.modify_modify_ne _ _ _ hjk], fun after hafter => ?_⟩
  obtain rfl := Host.Outcome.next.inj hafter
  exact List.getElem?_modify_ne _ _ hjk

/-- Settles O44: adjacent fields of the pattern join, from the highest byte down, to the whole pattern. -/
theorem toaBytesRoundTrip : Obligations.ToaBytesRoundTrip := by
  intro b
  refine ⟨rfl, congrArg some ?_⟩
  simp only [BitVec.extractLsb'_append_extractLsb'_eq_extractLsb']
  exact BitVec.extractLsb'_eq_self

/-- The byte placed at offset 6 stands there (R43). -/
theorem placeToa_getElem?_six {msg : List Byte} (hlen : 8 ≤ msg.length) (hi lo : Byte) :
    (placeToa msg hi lo)[6]? = some hi := by
  rw [placeToa, List.getElem?_set_ne (by decide), List.getElem?_set_self (by omega)]

/-- The byte placed at offset 7 stands there (R43). -/
theorem placeToa_getElem?_seven {msg : List Byte} (hlen : 8 ≤ msg.length) (hi lo : Byte) :
    (placeToa msg hi lo)[7]? = some lo := by
  rw [placeToa, List.getElem?_set_self (by rw [List.length_set]; omega)]

/-- Placing the ToA bytes changes no byte at another offset (R43). -/
theorem placeToa_getElem?_of_ne {n : Nat} (h6 : n ≠ 6) (h7 : n ≠ 7) (msg : List Byte) (hi lo : Byte) :
    (placeToa msg hi lo)[n]? = msg[n]? := by
  rw [placeToa, List.getElem?_set_ne h7.symm, List.getElem?_set_ne h6.symm]

/-- TOADQ is asked about the bytes at offsets 6 and 7 (R43). -/
theorem toadqOfMessage_of_getElem? {msg : List Byte} {hi lo : Byte} (hhi : msg[6]? = some hi)
    (hlo : msg[7]? = some lo) : toadqOfMessage msg = some (.toadq hi lo) := by
  simp only [toadqOfMessage, hhi, hlo]

/-- Settles O45: the two placed bytes stand at the offsets TOADQ is read from. -/
theorem placedToaBytesAreTheOnesRead : Obligations.PlacedToaBytesAreTheOnesRead := by
  intro msg hi lo hlen
  have hhi := placeToa_getElem?_six hlen hi lo
  have hlo := placeToa_getElem?_seven hlen hi lo
  exact ⟨hhi, hlo, toadqOfMessage_of_getElem? hhi hlo, fun _ h6 h7 => placeToa_getElem?_of_ne h6 h7 msg hi lo⟩

end Sys2Proof.Machine
end

section
/-!
The encoding (spec/30_encoding.md): decode and encode agree (R60 to R64), a reserved `op` is answered ILLEGAL_OP (R65,
R202), and the two pseudo-operations whose second request depends on the first response (R68).
-/

namespace Sys2Proof

/-- Settles O1: the decoder runs on each of the six requests. -/
theorem decodeReadsWrittenOpBytes : Obligations.DecodeReadsWrittenOpBytes :=
  ⟨rfl, rfl, rfl, rfl, rfl, rfl⟩

/-- The per-instruction law of encoded fields, for every operation. -/
theorem encodedFields (i : Instr) : Laws.EncodedFields.Statement i :=
  match i with
  | .ubit2sbit seq => Laws.EncodedFields.ubit2sbit seq
  | .sbit2ubit seq => Laws.EncodedFields.sbit2ubit seq
  | .sbit2hbit seq => Laws.EncodedFields.sbit2hbit seq
  | .hbit2sbit seq => Laws.EncodedFields.hbit2sbit seq
  | .burstchk seq => Laws.EncodedFields.burstchk seq
  | .toachk toa => Laws.EncodedFields.toachk toa
  | .toaq toa => Laws.EncodedFields.toaq toa
  | .toadq wHi wLo => Laws.EncodedFields.toadq wHi wLo

@[simp] theorem encode_op (i : Instr) : (encode i).op = i.opByte :=
  (encodedFields i).1

@[simp] theorem Request.restrictTo_op (r : Request) (f : Format) : (r.restrictTo f).op = r.op := by
  cases f <;> simp [Request.restrictTo]

/-- The decoder reads no field outside the format of the operation `op` selects (R60, R62). -/
theorem decode_restrictTo {r : Request} {i : Instr} (hop : r.op = i.opByte) :
    decode (r.restrictTo i.format) = decode r := by
  cases i <;> simp [decode, Instr.format, Request.restrictTo, hop, Instr.opByte]

/-- An operation survives being encoded and decoded (R61, R62, R64). -/
theorem decode_encode (i : Instr) : decode (encode i) = .ok i := by
  cases i <;> simp [decode, encode, Instr.opByte]

/-- A request that decodes to an operation is its encoding, up to the fields its format does not read (R62): each arm
of the decoder takes the operands from those fields of the request itself. -/
theorem restrictTo_of_decode {r : Request} {i : Instr} (h : decode r = .ok i) :
    r.restrictTo i.format = encode i := by
  unfold decode at h
  split at h <;> cases h
  all_goals
    next hop => simp [Request.restrictTo, Instr.format, encode, Instr.opByte, hop]

/-- Removing unread fields keeps the `op` byte. -/
theorem op_of_restrictTo_eq_encode {r : Request} {i : Instr} (h : r.restrictTo i.format = encode i) :
    r.op = i.opByte := by
  simpa using congrArg Request.op h

/-- What a request decodes to is settled by the request with its unread fields removed (R60 to R62). -/
theorem decode_eq_ok_iff (r : Request) (i : Instr) :
    decode r = .ok i ↔ r.restrictTo i.format = encode i := by
  refine ⟨restrictTo_of_decode, fun h => ?_⟩
  calc decode r
      = decode (r.restrictTo i.format) := (decode_restrictTo (op_of_restrictTo_eq_encode h)).symm
    _ = decode (encode i) := by rw [h]
    _ = .ok i := decode_encode i

/-- Settles O3: decoding depends on `op` and the fields the format keeps, and those are what encoding writes. -/
theorem decodeAndEncodeAgree : Obligations.DecodeAndEncodeAgree :=
  ⟨decode_encode, decode_eq_ok_iff⟩

theorem Instr.opByte_mem_assignedOps (i : Instr) : i.opByte ∈ Safety.assignedOps := by
  cases i <;> simp [Instr.opByte, Safety.assignedOps]

/-- What decodes has one of the eight assigned values (R61, R64). -/
theorem op_mem_assignedOps_of_decode {r : Request} {i : Instr} (h : decode r = .ok i) :
    r.op ∈ Safety.assignedOps := by
  rw [op_of_restrictTo_eq_encode (restrictTo_of_decode h)]
  exact i.opByte_mem_assignedOps

/-- None of the eight assigned values lies in a reserved range (R61, R65). -/
theorem assignedOps_not_reserved : ∀ op ∈ Safety.assignedOps,
    ¬ (op ≤ 0x0F#8 ∨ (0x14#8 ≤ op ∧ op ≤ 0x1F#8) ∨ (0x21#8 ≤ op ∧ op ≤ 0x2F#8) ∨
      (0x33#8 ≤ op ∧ op ≤ 0x3F#8) ∨ 0x40#8 ≤ op) := by
  decide

end Sys2Proof

namespace Sys2Proof.Machine

/-- Settles O2: what decodes has an assigned `op`, so a request with a reserved one is served as illegal. -/
theorem reservedOpIsAnsweredIllegalOp : Obligations.ReservedOpIsAnsweredIllegalOp := by
  intro s r hrequest hreserved
  cases hdecode : decode r with
  | error e =>
    have hstep : step s = .next (s.takeRequest.respond (raise .illegalOp)) :=
      (step_of_request hrequest).trans (serveRequest_of_illegal hdecode s.takeRequest)
    exact ⟨_, hstep, rfl, rfl, rfl⟩
  | ok i =>
    exact absurd hreserved (assignedOps_not_reserved r.op (op_mem_assignedOps_of_decode hdecode))

/-- The next response replaces the last one on the output port (log 4). -/
theorem State.takeRequest_respond_again (s : State) (old rsp : Response) :
    (s.takeRequest.respond old).takeRequest.respond rsp = s.takeRequest.respond rsp := rfl

/-- Asking for an operation runs it: the request issued is the operation's own encoding (R47, R64). -/
theorem ask_encode {i : Instr} {s : State} {rsp : Response}
    (h : exec i s.takeRequest = .next (s.takeRequest.respond rsp)) :
    ask (encode i) s = .next (rsp, s.takeRequest.respond rsp) := by
  simp [ask, step_issue, serveRequest_of_decode (decode_encode i), h]

/-- The range [-10, 10] of a number of units, in whole units and in exact numbers. -/
theorem neg_ten_le_and_le_ten_iff_div {unit : Nat} (hpos : 0 < unit) (n : Int) :
    (-(10 * unit : Int) ≤ n ∧ n ≤ 10 * unit) ↔ -10 ≤ (n / unit : ℚ) ∧ (n / unit : ℚ) ≤ 10 := by
  have hpos' : (0 : ℚ) < unit := Nat.cast_pos.mpr hpos
  rw [le_div_iff₀ hpos', div_le_iff₀ hpos', neg_mul]
  norm_cast

theorem unitsPerOne_pos : 0 < unitsPerOne := by
  rw [unitsPerOne_eq]
  exact Nat.mul_pos two_pos unitsPerHalf_pos

/-- The range check rejects NaN and the infinities (R151). -/
theorem acceptedToa_of_not_finite {b : ToaBits} (h : ¬ Safety.toaFinite b) : acceptedToa (some b) = none := by
  refine Option.eq_none_iff_forall_ne_some.mpr fun t haccepted => ?_
  obtain ⟨_, neg, mag, ⟨rfl⟩, hb, -⟩ := acceptedToa_eq_some haccepted
  exact h ((Safety.ofBits_finite_iff b).mp ⟨neg, mag, hb⟩)

/-- The range check accepts a pattern exactly when it is a number in [-10.0, 10.0] (R151). -/
theorem acceptedToa_isSome_iff_toaInRange (b : ToaBits) :
    (acceptedToa (some b)).isSome = true ↔ Safety.toaInRange b := by
  by_cases hfinite : Safety.toaFinite b
  · obtain ⟨neg, mag, hb⟩ := (Safety.ofBits_finite_iff b).mpr hfinite
    calc (acceptedToa (some b)).isSome = true
        ↔ -(10 * unitsPerOne : Int) ≤ signed neg mag ∧ signed neg mag ≤ 10 * unitsPerOne := by
          simp only [acceptedToa, hb, Option.isSome_ite]
      _ ↔ -10 ≤ Safety.toaReal b ∧ Safety.toaReal b ≤ 10 := by
          rw [Safety.toaReal_of_ofBits hb, neg_ten_le_and_le_ten_iff_div unitsPerOne_pos]
      _ ↔ Safety.toaInRange b := (and_iff_right hfinite).symm
  · rw [acceptedToa_of_not_finite hfinite]
    exact iff_of_false Bool.false_ne_true fun hin => hfinite hin.1

/-- The range check accepts exactly the present operands in range (R151). -/
theorem acceptedToa_isSome_iff (toa : Option ToaBits) :
    (acceptedToa toa).isSome = true ↔ ∃ b, toa = some b ∧ Safety.toaInRange b := by
  cases toa with
  | none => exact iff_of_false Bool.false_ne_true (by simp)
  | some b => simp only [acceptedToa_isSome_iff_toaInRange, Option.some.injEq, exists_eq_left']

/-- TOAENC, in terms of the answers of TOACHK and TOAQ (R68). -/
theorem toaenc_eq (toa : Option ToaBits) (s : State) :
    toaenc toa s =
      if (acceptedToa toa).isSome then
        .next ([toachkAnswer toa, toaqAnswer toa], s.takeRequest.respond (toaqAnswer toa))
      else .next ([toachkAnswer toa], s.takeRequest.respond (toachkAnswer toa)) := by
  have hchk : ask (encode (.toachk toa)) s =
      .next (toachkAnswer toa, s.takeRequest.respond (toachkAnswer toa)) := ask_encode rfl
  have henc : ask (encode (.toaq toa)) (s.takeRequest.respond (toachkAnswer toa)) =
      .next (toaqAnswer toa, s.takeRequest.respond (toaqAnswer toa)) := ask_encode rfl
  have hvalid : readValid (toachkAnswer toa) = .next (acceptedToa toa).isSome := rfl
  simp only [toaenc, hchk, henc, hvalid, andThen_next]

/-- Settles O42: TOAENC goes on to TOAQ exactly when the range check accepts, and then TOAQ does not raise. -/
theorem toaencQuantizesOnlyAcceptedToas : Obligations.ToaencQuantizesOnlyAcceptedToas := by
  intro s toa
  rw [toaenc_eq]
  rcases toaqAnswer_cases toa with ⟨hrejected, -⟩ | ⟨t, haccepted, henc⟩
  · have hout : ¬ ∃ b, toa = some b ∧ Safety.toaInRange b := by
      simp [← acceptedToa_isSome_iff, hrejected]
    refine ⟨_, _, if_neg (by simp [hrejected]), ?_⟩
    rw [if_neg hout]
    exact ⟨_, rfl, by simp [toachkAnswer, hrejected]⟩
  · have hin : ∃ b, toa = some b ∧ Safety.toaInRange b := by
      simp [← acceptedToa_isSome_iff, haccepted]
    refine ⟨_, _, if_pos (by simp [haccepted]), ?_⟩
    rw [if_pos hin]
    exact ⟨_, _, rfl, by simp [toachkAnswer, haccepted], by simp [henc], by simp [henc]⟩

/-- A sequence that fits and lies in the domain is converted lane by lane (R100). -/
theorem convert_of_fits {cfg : Cfg} {dom : Lane → Bool} {f : Lane → Lane} {l : List Lane}
    (hfits : cfg.maxSeqLen.admits l.length = true) (hdom : l.all dom = true) :
    convert cfg dom f (some l) = okSeq (l.map f) := by
  simp [convert, overCapacity_eq, hfits, hdom]

/-- An absent or too long sequence leaves no `seq_out` (R100). -/
theorem convert_seqOut_of_not_fits {cfg : Cfg} {o : Option (List Lane)} (dom : Lane → Bool) (f : Lane → Lane)
    (h : ¬ ∃ l, o = some l ∧ cfg.maxSeqLen.admits l.length = true) :
    (convert cfg dom f o).seqOut = none := by
  rcases convert_cases cfg dom f o with ⟨-, hc⟩ | ⟨l, rfl, ⟨-, hc⟩ | ⟨hover, -, -⟩ | ⟨-, -, hc⟩⟩
  · rw [hc, raise_seqOut]
  · rw [hc, raise_seqOut]
  · exact absurd ⟨l, rfl, by simpa [overCapacity_eq] using hover⟩ h
  · rw [hc, raise_seqOut]

/-- UBIT2SBIT, then SBIT2UBIT, on one lane (R104). -/
theorem sbitToUbit_ubitToSbit (u : Lane) :
    sbitToUbit (ubitToSbit u) = if u = 0xFF#8 then 0xFE#8 else u := by
  obtain ⟨hback, -⟩ := sbitToUbit_toNat (isSbit_ubitToSbit u)
  rw [ubitToSbit_toInt] at hback
  split
  · next hmarker =>
    subst hmarker
    rfl
  · next hother =>
    have hne : u.toNat ≠ 255 := fun h => hother (BitVec.eq_of_toNat_eq h)
    rw [if_neg hne] at hback
    exact BitVec.eq_of_toNat_eq (by omega)

@[simp] theorem andThen_refused {α β : Type} (why : Refusal) (f : α → Host.Outcome β Fault Refusal) :
    andThen (.refused why) f = .refused why := rfl

theorem ask_encode_ubit2sbit (o : Option (List Lane)) (s : State) :
    ask (encode (.ubit2sbit o)) s =
      .next (convert s.cfg isUbit ubitToSbit o, s.takeRequest.respond (convert s.cfg isUbit ubitToSbit o)) :=
  ask_encode rfl

theorem ask_encode_sbit2ubit (o : Option (List Lane)) (s : State) :
    ask (encode (.sbit2ubit o)) s =
      .next (convert s.cfg isSbit sbitToUbit o, s.takeRequest.respond (convert s.cfg isSbit sbitToUbit o)) :=
  ask_encode rfl

/-- UBITRT of a sequence that fits: both conversions pass, since each lane UBIT2SBIT gives is a signed soft bit. -/
theorem ubitrt_of_fits {s : State} {l : List Lane} (h : s.cfg.maxSeqLen.admits l.length = true) :
    ∃ t, ubitrt (some l) s =
      .next ([okSeq (l.map ubitToSbit), okSeq ((l.map ubitToSbit).map sbitToUbit)], t) := by
  have hfirst : convert s.cfg isUbit ubitToSbit (some l) = okSeq (l.map ubitToSbit) :=
    convert_of_fits h (by simp [isUbit])
  have hsecond : convert s.cfg isSbit sbitToUbit (some (l.map ubitToSbit)) =
      okSeq ((l.map ubitToSbit).map sbitToUbit) :=
    convert_of_fits (by simpa using h) (by simp [isSbit_ubitToSbit])
  have hread : readSeqOut (okSeq (l.map ubitToSbit)) = .next (l.map ubitToSbit) := rfl
  refine ⟨s.takeRequest.respond (okSeq ((l.map ubitToSbit).map sbitToUbit)), ?_⟩
  simp only [ubitrt, ask_encode_ubit2sbit, ask_encode_sbit2ubit, andThen_next, State.respond_cfg,
    State.takeRequest_cfg, State.takeRequest_respond_again, hfirst, hread, hsecond]

/-- UBITRT of any other operand: the first response has no `seq_out` to read. -/
theorem ubitrt_of_not_fits {s : State} {o : Option (List Lane)}
    (h : ¬ ∃ l, o = some l ∧ s.cfg.maxSeqLen.admits l.length = true) :
    ubitrt o s = .refused (.absentField .seqOut) := by
  have hread : readSeqOut (convert s.cfg isUbit ubitToSbit o) = .refused (.absentField .seqOut) :=
    orRefuse_of_eq_none (convert_seqOut_of_not_fits isUbit ubitToSbit h)
  simp only [ubitrt, ask_encode_ubit2sbit, andThen_next, andThen_refused, hread]

/-- Settles O43: the two lane functions of UBITRT compose to the identity, except that 255 becomes 254. -/
theorem ubitrtReturnsTheLanes : Obligations.UbitrtReturnsTheLanes := by
  intro s o
  split
  · next hfits =>
    obtain ⟨l, rfl, hadmits⟩ := hfits
    obtain ⟨t, hrun⟩ := ubitrt_of_fits hadmits
    exact ⟨_, _, t, l, rfl, hrun, by simp [sbitToUbit_ubitToSbit]⟩
  · next hnot => exact ubitrt_of_not_fits hnot

end Sys2Proof.Machine
end

section
/-!
The bit-representation converter (spec/40_bit_converter.md): the four operations are one procedure (R100) over a lane
domain and a lane function, so what they answer, and how two of them compose, is proved once for that procedure.
-/

namespace Sys2Proof.Machine

open Sys2Proof.Safety

/-! What the lane functions and the lane domains say, where the layer of laws does not say it yet. -/

/-- SBIT2HBIT on one lane (R105): zero counts as hard bit 0. -/
theorem sbitToHbit_eq (b : Lane) : sbitToHbit b = if b.toInt < 0 then 0x01#8 else 0x00#8 := by
  rw [sbitToHbit, toS8_eq_toInt]

/-- SBIT2UBIT, then UBIT2SBIT, on one lane of the domain (R104): the erasure marker never stands in between. -/
theorem ubitToSbit_sbitToUbit {b : Lane} (h : isSbit b = true) : ubitToSbit (sbitToUbit b) = b := by
  obtain ⟨hval, hne⟩ := sbitToUbit_toNat h
  have hnat : (sbitToUbit b).toNat ≠ 255 := fun h255 => hne (BitVec.eq_of_toNat_eq h255)
  apply BitVec.eq_of_toInt_eq
  rw [ubitToSbit_toInt, if_neg hnat, hval]
  omega

/-- SBIT2HBIT, then HBIT2SBIT, on one lane (R108): only the sign is left. -/
theorem hbitToSbit_sbitToHbit (b : Lane) :
    hbitToSbit (sbitToHbit b) = if b.toInt < 0 then 0x81#8 else 0x7F#8 := by
  rw [sbitToHbit_eq]
  split <;> rfl

/-- HBIT2SBIT, then SBIT2HBIT, on a hard bit (R108). -/
theorem sbitToHbit_hbitToSbit {h : Lane} (hdom : isHbit h = true) : sbitToHbit (hbitToSbit h) = h := by
  rcases (isHbit_iff h).mp hdom with rfl | rfl
  · rfl
  · rfl

/-- The lanes -127 to 127 are signed soft bits (R103, R105). -/
theorem isSbit_fromS8 {v : Int} (lo : -127 ≤ v) (hi : v ≤ 127) : isSbit (fromS8 v) = true := by
  rw [isSbit, toS8_eq_toInt, toInt_fromS8 (by omega) hi]
  exact decide_eq_true lo

/-- Every sequence is in the domain of UBIT2SBIT (R101). -/
theorem all_isUbit (l : List Lane) : l.all isUbit = true := by
  simp [isUbit]

/-- A lane is a hard bit exactly when its value is below 2 (R107). -/
theorem isHbit_iff_toNat_lt (lane : Lane) : isHbit lane = true ↔ lane.toNat < 2 := by
  rw [isHbit_iff]
  bv_omega

/-- A sequence leaves the domain of HBIT2SBIT exactly by a lane of 2 or more (R107). -/
theorem all_isHbit_iff_not_exists (l : List Lane) :
    l.all isHbit = true ↔ ¬ ∃ lane ∈ l, 2 ≤ lane.toNat := by
  simp [isHbit_iff_toNat_lt]

/-- The operation is the converter's procedure with this lane domain and this lane function (R100). -/
def ConvertsBy (op : Option (List Lane) → Instr) (dom : Lane → Bool) (f : Lane → Lane) : Prop :=
  ∀ (o : Option (List Lane)) (s : State), exec (op o) s = .next (s.respond (convert s.cfg dom f o))

theorem ubit2sbit_convertsBy : ConvertsBy .ubit2sbit isUbit ubitToSbit := fun _ _ => rfl

theorem sbit2ubit_convertsBy : ConvertsBy .sbit2ubit isSbit sbitToUbit := fun _ _ => rfl

theorem sbit2hbit_convertsBy : ConvertsBy .sbit2hbit isSbit sbitToHbit := fun _ _ => rfl

theorem hbit2sbit_convertsBy : ConvertsBy .hbit2sbit isHbit hbitToSbit := fun _ _ => rfl

/-- The response that carries a sequence, in the terms of the statements. -/
theorem okSeq_eq_dataless (l : List Lane) : okSeq l = { dataless 0x00#8 with seqOut := some l } := rfl

namespace ConvertsBy

variable {op op' : Option (List Lane) → Instr} {dom dom' : Lane → Bool} {f f' : Lane → Lane} {s : State}
  {l : List Lane}

/-- An absent sequence is answered DOMAIN (R100). -/
theorem exec_absent (h : ConvertsBy op dom f) (s : State) :
    exec (op none) s = .next (delivered s (dataless 0x02#8)) :=
  h none s

/-- A sequence over the capacity is answered CAPACITY, whatever its lanes (R204, R207). -/
theorem exec_of_not_admits (h : ConvertsBy op dom f) (hover : s.cfg.maxSeqLen.admits l.length = false) :
    exec (op (some l)) s = .next (delivered s (dataless 0x04#8)) := by
  have hanswer : convert s.cfg dom f (some l) = dataless 0x04#8 := by
    simp only [convert, overCapacity_eq, hover, Bool.not_false, if_true]
    rfl
  rw [h, hanswer, respond_eq_delivered]

/-- A sequence that fits and holds a lane outside the domain is answered DOMAIN (R100, R207). -/
theorem exec_of_not_all (h : ConvertsBy op dom f) (hfits : s.cfg.maxSeqLen.admits l.length = true)
    (hdom : ¬ l.all dom = true) : exec (op (some l)) s = .next (delivered s (dataless 0x02#8)) := by
  have hanswer : convert s.cfg dom f (some l) = dataless 0x02#8 := by
    simp only [convert, overCapacity_eq, hfits, Bool.not_true, if_neg hdom, if_neg Bool.false_ne_true]
    rfl
  rw [h, hanswer, respond_eq_delivered]

/-- A sequence that fits and lies in the domain is converted lane by lane (R100). -/
theorem exec_of_fits (h : ConvertsBy op dom f) (hfits : s.cfg.maxSeqLen.admits l.length = true)
    (hdom : l.all dom = true) :
    exec (op (some l)) s = .next (delivered s { dataless 0x00#8 with seqOut := some (l.map f) }) := by
  rw [h, convert_of_fits hfits hdom, okSeq_eq_dataless, respond_eq_delivered]

/-- What holds between each lane of the domain and its image holds between the sequences, lane by lane. -/
theorem exec_lanes (h : ConvertsBy op dom f) {rel : Lane → Lane → Prop}
    (hrel : ∀ lane, dom lane = true → rel lane (f lane)) (hfits : s.cfg.maxSeqLen.admits l.length = true)
    (hdom : l.all dom = true) :
    ∃ out : List Lane,
      exec (op (some l)) s = .next (delivered s { dataless 0x00#8 with seqOut := some out }) ∧
      out.length = l.length ∧
      ∀ (n : Nat) (u v : Lane), l[n]? = some u → out[n]? = some v → rel u v := by
  refine ⟨l.map f, h.exec_of_fits hfits hdom, List.length_map f, fun n u v hu hv => ?_⟩
  obtain rfl : f u = v := by simpa [hu] using hv
  exact hrel u (List.all_eq_true.mp hdom u (List.mem_of_getElem? hu))

/-- The whole answer to a present sequence, with the checks in the order of R207. -/
theorem exec_present (h : ConvertsBy op dom f) {outside : List Lane → Prop} [DecidablePred outside]
    {rel : Lane → Lane → Prop} (hout : ∀ l, l.all dom = true ↔ ¬ outside l)
    (hrel : ∀ lane, dom lane = true → rel lane (f lane)) (s : State) (l : List Lane) :
    if s.cfg.maxSeqLen.admits l.length = false then
      exec (op (some l)) s = .next (delivered s (dataless 0x04#8))
    else if outside l then
      exec (op (some l)) s = .next (delivered s (dataless 0x02#8))
    else ∃ out : List Lane,
      exec (op (some l)) s = .next (delivered s { dataless 0x00#8 with seqOut := some out }) ∧
      out.length = l.length ∧
      ∀ (n : Nat) (u v : Lane), l[n]? = some u → out[n]? = some v → rel u v := by
  split
  · next hover => exact h.exec_of_not_admits hover
  · next hfits =>
    rw [Bool.not_eq_false] at hfits
    split
    · next hoff => exact h.exec_of_not_all hfits fun hdom => (hout l).mp hdom hoff
    · next hin => exact h.exec_lanes hrel hfits ((hout l).mpr hin)

/-- Two operations in a row, where the second accepts what the first gives: the sequence that comes back is the lane
functions' composite on each lane. -/
theorem exec_roundTrip (h : ConvertsBy op dom f) (h' : ConvertsBy op' dom' f') {back : Lane → Lane}
    (haccepts : ∀ lane, dom' (f lane) = true) (hback : ∀ lane, dom lane = true → f' (f lane) = back lane)
    (hfits : s.cfg.maxSeqLen.admits l.length = true) (hdom : l.all dom = true) :
    ∃ mid : List Lane,
      exec (op (some l)) s = .next (delivered s { dataless 0x00#8 with seqOut := some mid }) ∧
      exec (op' (some mid)) s = .next (delivered s { dataless 0x00#8 with seqOut := some (l.map back) }) := by
  refine ⟨l.map f, h.exec_of_fits hfits hdom, ?_⟩
  have hmap : (l.map f).map f' = l.map back := by
    rw [List.map_map]
    exact List.map_congr_left fun lane hmem => hback lane (List.all_eq_true.mp hdom lane hmem)
  rw [← hmap]
  exact h'.exec_of_fits (by rwa [List.length_map]) (by simp [haccepts])

end ConvertsBy

/-- Settles O19: every sequence is in the domain, so only the capacity check can fail. -/
theorem ubit2sbitConvertsEveryLane : Obligations.Ubit2sbitConvertsEveryLane := by
  intro s
  refine ⟨fun o => encode_op (.ubit2sbit o), ubit2sbit_convertsBy.exec_absent s, fun seq => ?_⟩
  split
  · next hover => exact ubit2sbit_convertsBy.exec_of_not_admits hover
  · next hfits =>
    rw [Bool.not_eq_false] at hfits
    exact ubit2sbit_convertsBy.exec_lanes (fun u _ => ubitToSbit_toInt u) hfits (all_isUbit seq)

/-- Settles O21: 0x80 is the one lane outside the domain. -/
theorem sbit2ubitConvertsEveryLane : Obligations.Sbit2ubitConvertsEveryLane := fun s =>
  ⟨fun o => encode_op (.sbit2ubit o), sbit2ubit_convertsBy.exec_absent s,
    sbit2ubit_convertsBy.exec_present all_isSbit_iff (fun _ h => sbitToUbit_toNat h) s⟩

/-- Settles O22: 0x80 is the one lane outside the domain. -/
theorem sbit2hbitConvertsEveryLane : Obligations.Sbit2hbitConvertsEveryLane := fun s =>
  ⟨fun o => encode_op (.sbit2hbit o), sbit2hbit_convertsBy.exec_absent s,
    sbit2hbit_convertsBy.exec_present all_isSbit_iff (fun b _ => sbitToHbit_eq b) s⟩

/-- Settles O23: the lanes outside the domain are those of 2 or more. -/
theorem hbit2sbitConvertsEveryLane : Obligations.Hbit2sbitConvertsEveryLane := fun s =>
  ⟨fun o => encode_op (.hbit2sbit o), hbit2sbit_convertsBy.exec_absent s,
    hbit2sbit_convertsBy.exec_present all_isHbit_iff_not_exists (fun _ h => hbitToSbit_toInt h) s⟩

/-- Settles O24: on one lane the two functions undo each other, except that 255 comes back as 254. -/
theorem softBitRoundTrips : Obligations.SoftBitRoundTrips := by
  intro s seq hfits
  constructor
  · obtain ⟨mid, hthere, hback⟩ := ubit2sbit_convertsBy.exec_roundTrip sbit2ubit_convertsBy
      isSbit_ubitToSbit (fun u _ => sbitToUbit_ubitToSbit u) hfits (all_isUbit seq)
    exact ⟨mid, _, hthere, hback, rfl⟩
  · intro hdom
    have htrip := sbit2ubit_convertsBy.exec_roundTrip ubit2sbit_convertsBy (back := id)
      (fun _ => rfl) (fun _ h => ubitToSbit_sbitToUbit h) hfits ((all_isSbit_iff seq).mpr hdom)
    rwa [List.map_id] at htrip

/-- Settles O25: on one lane, deciding keeps the sign and nothing else, and a hard bit is the sign of its soft bit. -/
theorem hardBitRoundTrips : Obligations.HardBitRoundTrips := by
  intro s seq hfits
  constructor
  · intro hdom
    exact sbit2hbit_convertsBy.exec_roundTrip hbit2sbit_convertsBy
      isHbit_sbitToHbit (fun b _ => hbitToSbit_sbitToHbit b) hfits ((all_isSbit_iff seq).mpr hdom)
  · intro hdom
    have htrip := hbit2sbit_convertsBy.exec_roundTrip sbit2hbit_convertsBy (back := id)
      isSbit_hbitToSbit (fun _ h => sbitToHbit_hbitToSbit h) hfits ((all_isHbit_iff seq).mpr hdom)
    rwa [List.map_id] at htrip

/-- UBIT2SBIT of one lane that fits (R101). -/
theorem exec_ubit2sbit_singleton {s : State} (hfits : s.cfg.maxSeqLen.admits 1 = true) (u : Lane) :
    exec (.ubit2sbit (some [u])) s =
      .next (delivered s { dataless 0x00#8 with seqOut := some [ubitToSbit u] }) :=
  ubit2sbit_convertsBy.exec_of_fits hfits (all_isUbit [u])

/-- Settles O20: the lane function gives 0x81 for both markers, and only signed soft bits for any lane. -/
theorem erasureMarkerCollidesWith254 : Obligations.ErasureMarkerCollidesWith254 := by
  intro s hfits
  have hmarker : ubitToSbit 0xFF#8 = 0x81#8 := rfl
  have hlast : ubitToSbit 0xFE#8 = 0x81#8 := rfl
  refine ⟨hmarker ▸ exec_ubit2sbit_singleton hfits _, hlast ▸ exec_ubit2sbit_singleton hfits _, ?_⟩
  intro u t rsp hexec hrsp hout
  obtain rfl := Host.Outcome.next.inj ((exec_ubit2sbit_singleton hfits u).symm.trans hexec)
  obtain rfl := Option.some.inj hrsp
  have hlane : ubitToSbit u = 0x80#8 := by simpa using hout
  exact (isSbit_iff _).mp (isSbit_ubitToSbit u) hlane

/-- A choice by position in the first `m + k` positions, written as the two runs it gives. -/
theorem map_range_ite_lt {α : Type} (m k : Nat) (a b : α) :
    (List.range (m + k)).map (fun n => if n < m then a else b) = List.replicate m a ++ List.replicate k b := by
  rw [List.range_add, List.map_append, List.map_map]
  congr 1
  · exact List.eq_replicate_iff.mpr (by simp +contextual)
  · exact List.eq_replicate_iff.mpr (by simp)

/-- The soft bit `n - 127` decides to 1 exactly in the first 127 positions (R106). -/
theorem sbitToHbit_fromS8_sub {n : Nat} (h : n < 255) :
    sbitToHbit (fromS8 ((n : Int) - 127)) = if n < 127 then 0x01#8 else 0x00#8 := by
  rw [sbitToHbit_eq, toInt_fromS8 (by omega) (by omega)]
  exact if_congr (by omega) rfl rfl

/-- The lanes -127 to 127 in order, as R106 lists them. -/
def allSoftBits : List Lane :=
  (List.range 255).map fun n : Nat => fromS8 ((n : Int) - 127)

/-- The sequence of the statement of R106, whose positions are turned into integers before the lanes are built. -/
theorem map_range_eq_allSoftBits :
    (List.range 255).map (fun n => BitVec.ofInt 8 ((n : Int) - 127)) = allSoftBits := by
  rw [allSoftBits, bind_pure_comp, List.map_eq_map, List.map_map]
  rfl

theorem length_allSoftBits : allSoftBits.length = 255 := by
  rw [allSoftBits, List.length_map, List.length_range]

theorem all_isSbit_allSoftBits : allSoftBits.all isSbit = true := by
  rw [allSoftBits, List.all_map, List.all_eq_true]
  intro n hn
  have hlt : n < 255 := List.mem_range.mp hn
  exact isSbit_fromS8 (by omega) (by omega)

theorem map_sbitToHbit_allSoftBits :
    allSoftBits.map sbitToHbit = List.replicate 127 0x01#8 ++ List.replicate 128 0x00#8 := by
  calc allSoftBits.map sbitToHbit
      = (List.range (127 + 128)).map (fun n => if n < 127 then 0x01#8 else 0x00#8) := by
        rw [allSoftBits, List.map_map]
        exact List.map_congr_left fun n hn => sbitToHbit_fromS8_sub (List.mem_range.mp hn)
    _ = List.replicate 127 0x01#8 ++ List.replicate 128 0x00#8 := map_range_ite_lt 127 128 _ _

/-- Settles O26: the sequence fits, lies in the domain, and its sign changes once, at position 127. -/
theorem allSoftBitsDecideTo127OnesAnd128Zeros : Obligations.AllSoftBitsDecideTo127OnesAnd128Zeros := by
  intro s hfits
  rw [map_range_eq_allSoftBits, ← map_sbitToHbit_allSoftBits]
  exact sbit2hbit_convertsBy.exec_of_fits (by rwa [length_allSoftBits]) all_isSbit_allSoftBits

end Sys2Proof.Machine
end

section
/-!
The burst-length validator (spec/41_burst_validator.md): what BURSTCHK answers to an absent, an overlong and every
other burst, and that the lanes themselves are not read.
-/

namespace Sys2Proof.Machine

open Sys2Proof.Safety

/-- A burst over the capacity is answered CAPACITY (R204). -/
theorem burstAnswer_of_not_admits {cfg : Cfg} {seq : List Lane} (h : cfg.maxSeqLen.admits seq.length = false) :
    burstAnswer cfg (some seq) = raise .capacity := by
  simp [burstAnswer, overCapacity_eq, h]

/-- The burst enters the answer through its length alone (R131). -/
theorem burstAnswer_congr_length (cfg : Cfg) {a b : List Lane} (h : a.length = b.length) :
    burstAnswer cfg (some a) = burstAnswer cfg (some b) := by
  cases hfits : cfg.maxSeqLen.admits a.length with
  | false => rw [burstAnswer_of_not_admits hfits, burstAnswer_of_not_admits (h ▸ hfits)]
  | true => rw [burstAnswer_of_fits hfits, burstAnswer_of_fits (h ▸ hfits), h]

/-- The response of CAPACITY, in the terms of the statements. -/
theorem raise_capacity_eq_dataless : raise .capacity = dataless 0x04#8 := rfl

/-- BURSTCHK of an absent burst (R130). -/
theorem exec_burstchk_absent (s : State) :
    exec (.burstchk none) s = .next (delivered s { dataless 0x00#8 with valid := some false }) := rfl

/-- BURSTCHK of a burst over the capacity (R204). -/
theorem exec_burstchk_of_not_admits {s : State} {seq : List Lane}
    (h : s.cfg.maxSeqLen.admits seq.length = false) :
    exec (.burstchk (some seq)) s = .next (delivered s (dataless 0x04#8)) := by
  rw [exec_burstchk, burstAnswer_of_not_admits h, raise_capacity_eq_dataless, respond_eq_delivered]

/-- BURSTCHK of a burst that fits (R130). -/
theorem exec_burstchk_of_fits {s : State} {seq : List Lane} (h : s.cfg.maxSeqLen.admits seq.length = true) :
    exec (.burstchk (some seq)) s =
      .next (delivered s { dataless 0x00#8 with valid := some (permittedLength s.cfg seq.length) }) := by
  rw [exec_burstchk, burstAnswer_of_fits h, okValid_eq_dataless, respond_eq_delivered]

/-- Settles O27: past the capacity check the answer is the comparison with the two permitted lengths. -/
theorem burstchkChecksExactLength : Obligations.BurstchkChecksExactLength := by
  intro s
  refine ⟨fun o => encode_op (.burstchk o), exec_burstchk_absent s, fun seq => ?_⟩
  split
  · next hover => exact exec_burstchk_of_not_admits hover
  · next hfits =>
    rw [Bool.not_eq_false] at hfits
    exact ⟨_, exec_burstchk_of_fits hfits, permittedLength_iff s.cfg seq.length⟩

/-- Settles O28: the answer is all that depends on the burst. -/
theorem burstchkReadsNoLane : Obligations.BurstchkReadsNoLane := by
  intro s a b hlen
  rw [exec_burstchk, exec_burstchk, burstAnswer_congr_length s.cfg hlen]

end Sys2Proof.Machine
end

section
/-!
The arithmetic of TOAQ (spec/42_toa_quantizer.md R153): the product is exact (R154), and the rounded sum is truncated
to the same whole number as the exact one, but at `t*` (R157).
-/

namespace Sys2Proof.Machine

open Sys2Proof.Safety

/-! The fields of a finite binary64 pattern (R63). -/

/-- The magnitude that an exponent field and a fraction field stand for, in units of 2^-1074. -/
def finiteMag (e f : Nat) : Nat :=
  if e = 0 then f else (2 ^ 52 + f) * 2 ^ (e - 1)

/-- What the machine decodes to a finite value, it decodes from the three fields. -/
theorem fields_of_ofBits {b : ToaBits} {neg : Bool} {mag : Nat} (h : F64.ofBits b = .finite neg mag) :
    b.getLsbD 63 = neg ∧ finiteMag (b.extractLsb' 52 11).toNat (b.extractLsb' 0 52).toNat = mag := by
  unfold F64.ofBits at h
  unfold finiteMag
  dsimp only at h
  split at h
  · split at h <;> cases h
  · split at h <;> cases h
    · next he => exact ⟨rfl, if_pos he⟩
    · next he => exact ⟨rfl, if_neg he⟩

theorem hasSignificand_finiteMag (e : Nat) {f : Nat} (hf : f < 2 ^ 52) : HasSignificand (finiteMag e f) := by
  unfold finiteMag
  split
  · exact ⟨f, 0, by omega, by omega⟩
  · exact ⟨2 ^ 52 + f, e - 1, by omega, rfl⟩

/-- Magnitudes of different exponent fields lie on different sides of a power of two. -/
theorem finiteMag_lt_of_lt {e e' f : Nat} (hf : f < 2 ^ 52) (h : e < e') (f' : Nat) :
    finiteMag e f < finiteMag e' f' := by
  have hbelow : finiteMag e f < 2 ^ 52 * 2 ^ e := by
    unfold finiteMag
    split
    · next he => simpa [he] using hf
    · next he =>
      obtain ⟨k, rfl⟩ := Nat.exists_eq_succ_of_ne_zero he
      rw [Nat.succ_sub_one, pow_succ' 2 k, ← mul_assoc]
      exact Nat.mul_lt_mul_of_pos_right (by omega) (by positivity)
  have habove : 2 ^ 52 * 2 ^ e ≤ finiteMag e' f' := by
    rw [finiteMag, if_neg (by omega)]
    exact Nat.mul_le_mul (by omega) (Nat.pow_le_pow_right (by norm_num) (by omega))
  exact hbelow.trans_le habove

theorem finiteMag_injective {e e' f f' : Nat} (hf : f < 2 ^ 52) (hf' : f' < 2 ^ 52)
    (h : finiteMag e f = finiteMag e' f') : e = e' ∧ f = f' := by
  rcases lt_trichotomy e e' with hlt | rfl | hlt
  · exact absurd h (finiteMag_lt_of_lt hf hlt f').ne
  · refine ⟨rfl, ?_⟩
    unfold finiteMag at h
    split at h
    · exact h
    · exact Nat.add_left_cancel (Nat.eq_of_mul_eq_mul_right (by positivity) h)
  · exact absurd h (finiteMag_lt_of_lt hf' hlt f).ne'

/-- A pattern is its sign, exponent and fraction fields. -/
theorem ToaBits.eq_of_fields {a b : ToaBits} (hsign : a.getLsbD 63 = b.getLsbD 63)
    (hexp : (a.extractLsb' 52 11).toNat = (b.extractLsb' 52 11).toNat)
    (hfrac : (a.extractLsb' 0 52).toNat = (b.extractLsb' 0 52).toNat) : a = b := by
  have hbit (c : ToaBits) : c.getLsbD 63 = decide (2 ^ 63 ≤ c.toNat) := BitVec.msb_eq_decide c
  rw [hbit, hbit, decide_eq_decide] at hsign
  simp only [BitVec.extractLsb'_toNat, Nat.shiftRight_eq_div_pow] at hexp hfrac
  apply BitVec.eq_of_toNat_eq
  have := a.isLt
  have := b.isLt
  omega

/-- No two patterns decode to the same finite value: the signed zeros keep their sign. -/
theorem ofBits_injective {a b : ToaBits} {neg : Bool} {mag : Nat} (ha : F64.ofBits a = .finite neg mag)
    (hb : F64.ofBits b = .finite neg mag) : a = b := by
  obtain ⟨hsigna, hmaga⟩ := fields_of_ofBits ha
  obtain ⟨hsignb, hmagb⟩ := fields_of_ofBits hb
  obtain ⟨hexp, hfrac⟩ := finiteMag_injective (BitVec.isLt _) (BitVec.isLt _) (hmaga.trans hmagb.symm)
  exact ToaBits.eq_of_fields (hsigna.trans hsignb.symm) hexp hfrac

theorem natAbs_signed (neg : Bool) (mag : Nat) : (signed neg mag).natAbs = mag := by
  cases neg <;> simp [signed]

/-- An accepted ToA has a 53-bit significand. -/
theorem hasSignificand_of_acceptedToa {toa : Option ToaBits} {t : Int} (h : acceptedToa toa = some t) :
    HasSignificand t.natAbs := by
  obtain ⟨b, neg, mag, -, hb, rfl, -⟩ := acceptedToa_eq_some h
  rw [natAbs_signed, ← (fields_of_ofBits hb).2]
  exact hasSignificand_finiteMag _ (BitVec.isLt _)

/-! The rounded product and the rounded sum of R153. -/

/-- A number with a 53-bit significand is its own rounding (R13). -/
theorem fl_eq_self {u : Int} (h : HasSignificand u.natAbs) : fl u = u :=
  le_antisymm (fl_le_of_le h le_rfl) (le_fl_of_le h le_rfl)

/-- Scaling by a power of two keeps the significand. -/
theorem HasSignificand.mul_two_pow {n : Nat} (h : HasSignificand n) (k : Nat) : HasSignificand (n * 2 ^ k) := by
  obtain ⟨m, j, hm, rfl⟩ := h
  exact ⟨m, j + k, hm, by rw [mul_assoc, ← pow_add]⟩

/-- Multiplying an accepted ToA by 256 changes its exponent alone. -/
theorem hasSignificand_product {toa : Option ToaBits} {t : Int} (h : acceptedToa toa = some t) :
    HasSignificand (t * 256).natAbs := by
  rw [Int.natAbs_mul]
  exact (hasSignificand_of_acceptedToa h).mul_two_pow 8

/-- Settles O34: the product has the significand of the operand, so rounding leaves it alone. -/
theorem toaqProductIsExact : Obligations.ToaqProductIsExact := fun _ _ h =>
  fl_eq_self (hasSignificand_product h)

/-- A multiple of `2^j` of at most 53 bits above that place is its own rounding. -/
theorem fl_eq_self_of_dvd {s : Int} {j : Nat} (hdvd : ((2 ^ j : Nat) : Int) ∣ s)
    (hlt : s.natAbs < 2 ^ 53 * 2 ^ j) : fl s = s :=
  fl_eq_self ⟨s.natAbs / 2 ^ j, j, Nat.div_lt_of_lt_mul (by rwa [mul_comm]),
    (Nat.div_mul_cancel (Int.natCast_dvd.mp hdvd)).symm⟩

/-- The last place of a 53-bit significand can be chosen at `2^k` or below where the magnitude allows it. -/
theorem HasSignificand.exists_lastPlace {n k : Nat} (h : HasSignificand n) (hlt : n < 2 ^ 53 * 2 ^ k) :
    ∃ j ≤ k, 2 ^ j ∣ n ∧ n < 2 ^ 53 * 2 ^ j := by
  obtain ⟨m, j, hm, rfl⟩ := h
  rcases le_total j k with hj | hj
  · exact ⟨j, hj, Dvd.intro_left m rfl, Nat.mul_lt_mul_of_pos_right hm (by positivity)⟩
  · exact ⟨k, le_rfl, (Nat.pow_dvd_pow 2 hj).mul_left m, hlt⟩

/-- 2^-54, the last place of the products from 1/4 up to 1/2. It is half the last place of the sums below 1, whence
the tie at `t*` (R157). -/
def ulpBelowHalf : Nat := 2 ^ 1020

theorem unitsPerHalf_eq : unitsPerHalf = 2 ^ 53 * ulpBelowHalf := by
  rw [unitsPerHalf, ulpBelowHalf, ← pow_add]

theorem ulpBelowHalf_pos : 0 < ulpBelowHalf := by
  unfold ulpBelowHalf
  positivity

theorem cast_unitsPerOne : (unitsPerOne : Int) = 2 * unitsPerHalf := by
  rw [unitsPerOne_eq]
  push_cast
  rfl

/-- The product `x` of R153 for an accepted ToA: a 53-bit significand, and at most 2560 in magnitude. -/
structure ExactProduct (x : Int) : Prop where
  significand : HasSignificand x.natAbs
  bound : x.natAbs ≤ 5120 * unitsPerHalf

/-- The last place of the product lies at one half or below. -/
theorem ExactProduct.exists_lastPlace {x : Int} (hx : ExactProduct x) :
    ∃ j ≤ 1073, ((2 ^ j : Nat) : Int) ∣ x ∧ x.natAbs < 2 ^ 53 * 2 ^ j := by
  have hlt : x.natAbs < 2 ^ 53 * unitsPerHalf :=
    hx.bound.trans_lt (Nat.mul_lt_mul_of_pos_right (by norm_num) unitsPerHalf_pos)
  rw [unitsPerHalf] at hlt
  obtain ⟨j, hj, hdvd, hlt⟩ := hx.significand.exists_lastPlace hlt
  exact ⟨j, hj, Int.natCast_dvd.mpr hdvd, hlt⟩

/-- One half is a multiple of every place at or below it. -/
theorem dvd_add_unitsPerHalf {x : Int} {j : Nat} (hj : j ≤ 1073) (h : ((2 ^ j : Nat) : Int) ∣ x) :
    ((2 ^ j : Nat) : Int) ∣ x + unitsPerHalf := by
  have hhalf : 2 ^ j ∣ unitsPerHalf := by
    rw [unitsPerHalf]
    exact pow_dvd_pow 2 hj
  exact dvd_add h (Int.natCast_dvd_natCast.mpr hhalf)

/-- Below -1/2 the sum is smaller in magnitude than the product, so it is exact. -/
theorem ExactProduct.fl_add_half_of_lt {x : Int} (hx : ExactProduct x) (h : x < -unitsPerHalf) :
    fl (x + unitsPerHalf) = x + unitsPerHalf := by
  obtain ⟨j, hj, hdvd, hlt⟩ := hx.exists_lastPlace
  exact fl_eq_self_of_dvd (dvd_add_unitsPerHalf hj hdvd) (by omega)

/-- Where the last place of the product lies above 2^-54, the power of two that bounds the product is a whole number,
so it bounds the sum as well, and the sum is exact. -/
theorem fl_add_half_of_highPlace {x n : Int} {j : Nat} (hj : j ≤ 1073) (hhigh : 1021 ≤ j)
    (hdvd : ((2 ^ j : Nat) : Int) ∣ x) (hlt : x.natAbs < 2 ^ 53 * 2 ^ j) (hn : 0 ≤ n)
    (hlo : n * unitsPerOne < x) (hhi : x < n * unitsPerOne + unitsPerHalf) :
    fl (x + unitsPerHalf) = x + unitsPerHalf := by
  have hpos : (0 : Int) < unitsPerOne := Int.natCast_pos.mpr unitsPerOne_pos
  have hone := cast_unitsPerOne
  have hpow : 2 ^ 53 * 2 ^ j = 2 ^ (j - 1021) * unitsPerOne := by
    rw [unitsPerOne, ← pow_add, ← pow_add, show 53 + j = j - 1021 + 1074 by omega]
  have hnx : 0 ≤ n * unitsPerOne := mul_nonneg hn hpos.le
  have hxlt : x < (2 ^ (j - 1021) : Nat) * unitsPerOne := by
    rw [← Nat.cast_mul, ← hpow]
    omega
  have hn1 : n + 1 ≤ (2 ^ (j - 1021) : Nat) := lt_of_mul_lt_mul_right (hlo.trans hxlt) hpos.le
  have hnext : (n + 1) * unitsPerOne ≤ (2 ^ 53 * 2 ^ j : Nat) := by
    rw [hpow, Nat.cast_mul]
    exact mul_le_mul_of_nonneg_right hn1 hpos.le
  rw [add_one_mul] at hnext
  exact fl_eq_self_of_dvd (dvd_add_unitsPerHalf hj hdvd) (by omega)

/-- Below 1/2 a product is a multiple of 2^-54 or smaller than 1/4, so all but that of `t*` stay two such units away
from 1/2. -/
theorem le_half_sub_two_ulps {x : Int} {j : Nat} (hj : j ≤ 1020) (hdvd : ((2 ^ j : Nat) : Int) ∣ x)
    (hlt : x.natAbs < 2 ^ 53 * 2 ^ j) (hne : x ≠ (unitsPerHalf : Int) - ulpBelowHalf) :
    x ≤ (unitsPerHalf : Int) - 2 * ulpBelowHalf := by
  have hu := ulpBelowHalf_pos
  have hhalf := unitsPerHalf_eq
  rcases Nat.lt_or_eq_of_le hj with hlow | rfl
  · have hle : 2 * 2 ^ j ≤ ulpBelowHalf := by
      rw [ulpBelowHalf, ← pow_succ']
      exact pow_le_pow_right₀ (by norm_num) hlow
    omega
  · rw [← ulpBelowHalf] at hdvd hlt
    obtain ⟨c, rfl⟩ := hdvd
    have hupos : (0 : Int) < ulpBelowHalf := Int.natCast_pos.mpr hu
    have hclt : c < 2 ^ 53 := by
      refine lt_of_mul_lt_mul_left (a := (ulpBelowHalf : Int)) ?_ hupos.le
      omega
    have hcne : c ≠ 2 ^ 53 - 1 := by
      rintro rfl
      exact hne (by rw [hhalf]; push_cast; ring)
    have hcle : (ulpBelowHalf : Int) * c ≤ ulpBelowHalf * (2 ^ 53 - 2) :=
      mul_le_mul_of_nonneg_left (by omega) hupos.le
    omega

/-- Past the middle between two whole numbers, no sum but that of `t*` is rounded up to the next one (R157). -/
theorem ExactProduct.fl_add_half_lt {x n : Int} (hx : ExactProduct x)
    (hne : x ≠ (unitsPerHalf : Int) - ulpBelowHalf) (hn : 0 ≤ n) (hlo : n * unitsPerOne < x)
    (hhi : x < n * unitsPerOne + unitsPerHalf) : fl (x + unitsPerHalf) < (n + 1) * unitsPerOne := by
  have hone := cast_unitsPerOne
  have hhalf := unitsPerHalf_eq
  have hu := ulpBelowHalf_pos
  rw [add_one_mul]
  obtain ⟨j, hj, hdvd, hlt⟩ := hx.exists_lastPlace
  rcases Nat.lt_or_ge j 1021 with hlow | hhigh
  · have hle := le_half_sub_two_ulps (by omega) hdvd hlt hne
    have hnonneg : 0 ≤ n * unitsPerOne := mul_nonneg hn (Int.natCast_nonneg _)
    have hsig : HasSignificand ((2 * unitsPerHalf : Int) - 2 * ulpBelowHalf).natAbs :=
      ⟨2 ^ 53 - 1, 1021, by norm_num, by
        rw [pow_succ' 2 1020, ← ulpBelowHalf]
        omega⟩
    have hbelow := fl_le_of_le (u := x + unitsPerHalf) hsig (by omega)
    omega
  · rw [fl_add_half_of_highPlace hj hhigh hdvd hlt hn hlo hhi]
    omega

/-- The rounded sum lies between the same two neighbouring whole numbers as the exact one, but for the product of `t*`.
Up to the middle between them no rounding crosses the middle; past it, none reaches the upper one. -/
theorem ExactProduct.fl_add_half_between {x n : Int} (hx : ExactProduct x)
    (hne : x ≠ (unitsPerHalf : Int) - ulpBelowHalf) (hn : 0 ≤ n) (hlo : n * unitsPerOne ≤ x + unitsPerHalf)
    (hhi : x + unitsPerHalf < (n + 1) * unitsPerOne) :
    n * unitsPerOne ≤ fl (x + unitsPerHalf) ∧ fl (x + unitsPerHalf) < (n + 1) * unitsPerOne := by
  have hone := cast_unitsPerOne
  have hpos := unitsPerHalf_pos
  have hn2560 : n < 2561 := by
    refine lt_of_mul_lt_mul_right (a := (unitsPerOne : Int)) ?_ (Int.natCast_nonneg _)
    have := hx.bound
    omega
  have hlower : 2 * n * unitsPerHalf = n * unitsPerOne := by rw [hone]; ring
  have hmiddle : (2 * n + 1) * unitsPerHalf = n * unitsPerOne + unitsPerHalf := by rw [hone]; ring
  have hupper : (n + 1) * unitsPerOne = n * unitsPerOne + unitsPerOne := add_one_mul ..
  refine ⟨hlower ▸ le_fl_of_le (hasSignificand_mul_unitsPerHalf (by omega)) (hlower ▸ hlo), ?_⟩
  rcases le_or_gt x (n * unitsPerOne) with hbelow | habove
  · have hle := fl_le_of_le (u := x + unitsPerHalf)
      (hasSignificand_mul_unitsPerHalf (m := 2 * n + 1) (by omega)) (by omega)
    omega
  · exact hx.fl_add_half_lt hne hn habove (by omega)

/-- R157 in units: truncation takes the rounded sum and the exact one to the same whole number, but for the product
of `t*`. -/
theorem ExactProduct.tdiv_fl_add_half {x : Int} (hx : ExactProduct x)
    (hne : x ≠ (unitsPerHalf : Int) - ulpBelowHalf) :
    (fl (x + unitsPerHalf)).tdiv unitsPerOne = (x + unitsPerHalf).tdiv unitsPerOne := by
  rcases lt_or_ge x (-unitsPerHalf) with hneg | hnonneg
  · rw [hx.fl_add_half_of_lt hneg]
  have hpos : (0 : Int) < unitsPerOne := Int.natCast_pos.mpr unitsPerOne_pos
  have hsum : 0 ≤ x + unitsPerHalf := by omega
  rw [Int.tdiv_eq_ediv_of_nonneg hsum, Int.tdiv_eq_ediv_of_nonneg (le_fl_of_le hasSignificand_zero hsum)]
  obtain ⟨hlo, hhi⟩ := hx.fl_add_half_between hne (Int.ediv_nonneg hsum hpos.le)
    (Int.ediv_mul_le _ hpos.ne') (Int.lt_ediv_add_one_mul_self _ hpos)
  exact le_antisymm (Int.lt_add_one_iff.mp ((Int.ediv_lt_iff_lt_mul hpos).mpr hhi))
    ((Int.le_ediv_iff_mul_le hpos).mpr hlo)

end Sys2Proof.Machine
end

section
/-!
The operations TOACHK, TOAQ and TOADQ (spec/42_toa_quantizer.md R151 to R161): their answers in the terms of the
statements, the exact characterisation of TOAQ's word (R157), and the error and mirror laws that follow from it (R158).
-/

namespace Sys2Proof.Machine

open Sys2Proof.Safety

/-! The word of an accepted ToA, in exact numbers (R157). -/

/-- Truncation toward zero. -/
def truncate (y : ℚ) : Int :=
  if 0 ≤ y then ⌊y⌋ else ⌈y⌉

theorem truncate_of_nonneg {y : ℚ} (h : 0 ≤ y) : truncate y = ⌊y⌋ := if_pos h

theorem truncate_of_nonpos {y : ℚ} (h : y ≤ 0) : truncate y = ⌈y⌉ := by
  rcases h.lt_or_eq with hneg | rfl
  · exact if_neg hneg.not_ge
  · rw [truncate_of_nonneg le_rfl, Int.floor_zero, Int.ceil_zero]

/-- Truncated division of whole numbers is the truncation of the quotient. -/
theorem truncate_div {d : Nat} (hd : 0 < d) (n : Int) : truncate (n / d : ℚ) = n.tdiv d := by
  have hd' : (0 : ℚ) < d := Nat.cast_pos.mpr hd
  rcases le_total 0 n with hn | hn
  · rw [truncate_of_nonneg (div_nonneg (Int.cast_nonneg hn) hd'.le), Rat.floor_intCast_div_natCast,
      Int.tdiv_eq_ediv_of_nonneg hn]
  · have hneg : n.tdiv d = -((-n) / d) := by
      rw [← Int.tdiv_eq_ediv_of_nonneg (by omega), Int.neg_tdiv, neg_neg]
    rw [truncate_of_nonpos (div_nonpos_of_nonpos_of_nonneg (Int.cast_nonpos.mpr hn) hd'.le),
      Rat.ceil_intCast_div_natCast, hneg]

/-- The word R157 gives for a ToA, as an integer. -/
def exactWord (toa : ToaBits) : Int :=
  if toa = tStar then 1 else truncate (256 * toaReal toa + 1 / 2)

theorem exactWord_tStar : exactWord tStar = 1 := if_pos rfl

theorem exactWord_of_ne {toa : ToaBits} (h : toa ≠ tStar) :
    exactWord toa = truncate (256 * toaReal toa + 1 / 2) := if_neg h

/-- The units an accepted ToA is decoded to are its exact value. -/
theorem toaReal_of_acceptedToa {toa : ToaBits} {t : Int} (h : acceptedToa (some toa) = some t) :
    toaReal toa = (t : ℚ) / (unitsPerOne : ℚ) := by
  obtain ⟨_, neg, mag, ⟨rfl⟩, hb, rfl, -⟩ := acceptedToa_eq_some h
  exact toaReal_of_ofBits hb

/-- The exact sum of R153 in units. -/
theorem sum_div_unitsPerOne (t : Int) :
    256 * ((t : ℚ) / (unitsPerOne : ℚ)) + 1 / 2 = ((t * 256 + unitsPerHalf : Int) : ℚ) / (unitsPerOne : ℚ) := by
  have hhalf : (unitsPerHalf : ℚ) ≠ 0 := Nat.cast_ne_zero.mpr unitsPerHalf_pos.ne'
  rw [unitsPerOne_eq]
  generalize unitsPerHalf = half at *
  push_cast
  field_simp

theorem exactProduct_of_acceptedToa {toa : Option ToaBits} {t : Int} (h : acceptedToa toa = some t) :
    ExactProduct (t * 256) := by
  obtain ⟨_, _, _, -, -, -, hlo, hhi⟩ := acceptedToa_eq_some h
  have hone := unitsPerOne_eq
  exact ⟨hasSignificand_product h, by omega⟩

/-- `t*` is decoded to the units of `2^-9 - 2^-62`. -/
theorem ofBits_tStar : F64.ofBits tStar = .finite false ((2 ^ 53 - 1) * 2 ^ 1012) := by
  decide +kernel

theorem toaReal_tStar : 256 * toaReal tStar = 1 / 2 - 1 / 2 ^ 54 := by
  rw [toaReal_normal (neg := false) (e := 1013) (f := 2 ^ 52 - 1) (by decide) (by decide) (by decide) (by decide)]
  norm_num

/-- TOAQ of `t*`: the sum is a tie, and the even neighbour is 1 (R157). -/
theorem quantize_tStar {t : Int} (h : acceptedToa (some tStar) = some t) : quantize t = 1 := by
  have hword : (acceptedToa (some tStar)).map quantize = some 1 := by decide +kernel
  simpa [h] using hword

/-- No other accepted ToA has the product of `t*`. -/
theorem product_ne_of_ne_tStar {toa : ToaBits} {t : Int} (h : acceptedToa (some toa) = some t)
    (hne : toa ≠ tStar) : t * 256 ≠ (unitsPerHalf : Int) - ulpBelowHalf := by
  intro hproduct
  obtain ⟨_, neg, mag, ⟨rfl⟩, hb, rfl, -⟩ := acceptedToa_eq_some h
  have hulp : ulpBelowHalf = 256 * 2 ^ 1012 := by
    rw [ulpBelowHalf, show 1020 = 8 + 1012 from rfl, pow_add]
    norm_num
  have hhalf := unitsPerHalf_eq
  have hpos : 0 < ulpBelowHalf := ulpBelowHalf_pos
  cases neg with
  | true =>
    simp only [signed, if_true] at hproduct
    omega
  | false =>
    have hmag : mag = (2 ^ 53 - 1) * 2 ^ 1012 := by
      simp only [signed, Bool.false_eq_true, if_false] at hproduct
      generalize 2 ^ 1012 = u at *
      omega
    rw [hmag] at hb
    exact hne (ofBits_injective hb ofBits_tStar)

/-- R157: the word TOAQ computes in binary64 is the one of the exact characterisation. -/
theorem quantize_eq_exactWord {toa : ToaBits} {t : Int} (h : acceptedToa (some toa) = some t) :
    quantize t = exactWord toa := by
  by_cases hstar : toa = tStar
  · subst hstar
    rw [quantize_tStar h, exactWord_tStar]
  · calc quantize t
        = (fl (t * 256 + unitsPerHalf)).tdiv unitsPerOne := by
          rw [quantize_eq, fl_eq_self (hasSignificand_product h)]
      _ = (t * 256 + unitsPerHalf).tdiv unitsPerOne :=
          (exactProduct_of_acceptedToa h).tdiv_fl_add_half (product_ne_of_ne_tStar h hstar)
      _ = exactWord toa := by
          rw [exactWord_of_ne hstar, toaReal_of_acceptedToa h, sum_div_unitsPerOne,
            truncate_div unitsPerOne_pos]

/-! The answers of the three operations, in the terms of the statements. -/

theorem exec_toachk (toa : Option ToaBits) (s : State) :
    exec (.toachk toa) s =
      .next (delivered s { dataless 0x00#8 with valid := some (acceptedToa toa).isSome }) := rfl

theorem exec_toaq (toa : Option ToaBits) (s : State) :
    exec (.toaq toa) s = .next (delivered s (toaqAnswer toa)) := rfl

theorem exec_toadq (wHi wLo : Byte) (s : State) :
    exec (.toadq wHi wLo) s = .next (delivered s (dataless 0x00#8)) := rfl

theorem raise_validation_eq_dataless : raise .validation = dataless 0x01#8 := rfl

/-- Two deliveries to one state agree exactly when the responses do. -/
theorem next_delivered_inj {s : State} {a b : Response} :
    (Host.Outcome.next (delivered s a) : Host.Outcome State Fault Refusal) = .next (delivered s b) ↔ a = b := by
  simp [delivered]

/-- The range check accepts the operands in range (R151). -/
theorem exists_acceptedToa_of_inRange {toa : ToaBits} (h : toaInRange toa) :
    ∃ t, acceptedToa (some toa) = some t :=
  Option.isSome_iff_exists.mp ((acceptedToa_isSome_iff_toaInRange toa).mpr h)

/-- TOAQ gives a word for an accepted operand (R153). -/
theorem toaqAnswer_of_accepted {toa : Option ToaBits} {t : Int} (h : acceptedToa toa = some t) :
    toaqAnswer toa = okQ (q8OfInt (quantize t)) := by
  simp [toaqAnswer, h]

/-- The word of an accepted ToA reads back as the integer R153 computes: it fits 16 bits (R156). -/
theorem toInt_word_of_accepted {toa : Option ToaBits} {t : Int} (h : acceptedToa toa = some t) :
    (q8OfInt (quantize t)).toInt = quantize t := by
  obtain ⟨_, _, _, -, -, -, hlo, hhi⟩ := acceptedToa_eq_some h
  obtain ⟨hmin, hmax⟩ := quantize_bounds hlo hhi
  exact toInt_q8OfInt hmin hmax

/-- TOAQ of an operand in range: the word of R157 and its bytes. -/
theorem toaqAnswer_of_inRange {toa : ToaBits} (h : toaInRange toa) :
    ∃ w : Q8, toaqAnswer (some toa) = okQ w ∧ w.toInt = exactWord toa := by
  obtain ⟨t, ht⟩ := exists_acceptedToa_of_inRange h
  exact ⟨_, toaqAnswer_of_accepted ht, (toInt_word_of_accepted ht).trans (quantize_eq_exactWord ht)⟩

theorem toaqWord_eq (s : State) (toa : ToaBits) : toaqWord s toa = (toaqAnswer (some toa)).q := rfl

/-- Whenever TOAQ gives a word, it is the one of R157. -/
theorem toInt_of_toaqWord {s : State} {toa : ToaBits} {w : Q8} (h : toaqWord s toa = some w) :
    w.toInt = exactWord toa := by
  rw [toaqWord_eq] at h
  rcases toaqAnswer_cases (some toa) with ⟨-, hanswer⟩ | ⟨t, ht, hanswer⟩
  · rw [hanswer, raise_q] at h
    cases h
  · rw [hanswer, okQ_q] at h
    obtain rfl := Option.some.inj h
    exact (toInt_word_of_accepted ht).trans (quantize_eq_exactWord ht)

/-- An operand in range has its word. -/
theorem toaqWord_of_inRange (s : State) {toa : ToaBits} (h : toaInRange toa) :
    ∃ w, toaqWord s toa = some w ∧ w.toInt = exactWord toa := by
  obtain ⟨w, hanswer, hw⟩ := toaqAnswer_of_inRange h
  exact ⟨w, by rw [toaqWord_eq, hanswer, okQ_q], hw⟩

/-- Settles O31: TOACHK answers whether the range check accepts, and that is the test on the exact value. -/
theorem toachkChecksTheRange : Obligations.ToachkChecksTheRange := fun s =>
  ⟨fun o => encode_op (.toachk o), exec_toachk none s,
    fun toa => ⟨_, exec_toachk (some toa) s, acceptedToa_isSome_iff_toaInRange toa⟩⟩

/-- Settles O32: both operations are settled by the one range check. -/
theorem toaqRejectsWhatToachkRejects : Obligations.ToaqRejectsWhatToachkRejects := by
  intro s toa
  rw [exec_toachk, exec_toaq, next_delivered_inj, next_delivered_inj]
  rcases toaqAnswer_cases toa with ⟨hrejected, hanswer⟩ | ⟨t, haccepted, hanswer⟩
  · simp [hrejected, hanswer, raise_validation_eq_dataless]
  · refine iff_of_false (by simp [haccepted]) fun h => ?_
    have hstatus : (0x00#8 : Byte) = 0x01#8 := congrArg Response.status (hanswer.symm.trans h)
    exact absurd hstatus (by decide)

/-- Settles O33: the binary64 arithmetic of TOAQ gives the word of the exact characterisation. -/
theorem toaqMatchesTheExactCharacterisation : Obligations.ToaqMatchesTheExactCharacterisation := by
  intro s toa hin
  obtain ⟨w, hanswer, hw⟩ := toaqAnswer_of_inRange hin
  exact ⟨w, by rw [exec_toaq, hanswer]; rfl, hw⟩

/-- Settles O38: with a rejected operand TOAQ raises VALIDATION, with an accepted one it has a word. -/
theorem toaqSucceedsExactlyWhenToachkAccepts : Obligations.ToaqSucceedsExactlyWhenToachkAccepts := by
  intro s toa
  refine ⟨_, _, exec_toachk toa s, exec_toaq toa s, ?_⟩
  rcases toaqAnswer_cases toa with ⟨hrejected, hanswer⟩ | ⟨t, haccepted, hanswer⟩
  · simp [hrejected, hanswer, Status.code]
  · simp [haccepted, hanswer]

/-- Settles O35: the words of accepted operands are bounded, and TOAQ is evaluated at the two bounds. -/
theorem toaqWordStaysInRange : Obligations.ToaqWordStaysInRange := by
  intro s
  have hlowest : toaqAnswer (some 0xC024000000000000#64) = okQ 0xF601#16 := by decide +kernel
  have hhighest : toaqAnswer (some 0x4024000000000000#64) = okQ 0x0A00#16 := by decide +kernel
  refine ⟨fun toa w hw => ?_, by rw [exec_toaq, hlowest]; rfl, by rw [exec_toaq, hhighest]; rfl⟩
  obtain ⟨-, -, -, -, -, hbounds, -⟩ := goodResponse_toaqAnswer s.cfg (some toa)
  exact hbounds w hw

/-- Settles O39: the received word is discarded. -/
theorem toadqYieldsNoToa : Obligations.ToadqYieldsNoToa := fun s wHi wLo =>
  ⟨encode_op (.toadq wHi wLo), exec_toadq wHi wLo s⟩

/-- The two bytes of a word, in wire order, are the word again (R42). -/
theorem receivedWord_bytes (w : Q8) : receivedWord (w.extractLsb' 8 8) (w.extractLsb' 0 8) = w := by
  simp only [receivedWord, BitVec.extractLsb'_append_extractLsb'_eq_extractLsb']
  exact BitVec.extractLsb'_eq_self

/-- Settles O40: each response an operation delivers is a good one, which has no `toa_out`. -/
theorem noOperationDecodesAToa : Obligations.NoOperationDecodesAToa := by
  refine ⟨fun i s t rsp hexec hrsp => ?_, fun s toa hin => ?_⟩
  · obtain ⟨r, hdelivers, -, -, hnone, -⟩ := exec_delivers_goodResponse i s
    obtain rfl : s.respond r = t := Host.Outcome.next.inj (hdelivers.symm.trans hexec)
    obtain rfl : r = rsp := Option.some.inj hrsp
    exact ⟨hnone, orRefuse_of_eq_none hnone⟩
  · obtain ⟨w, hanswer, -⟩ := toaqAnswer_of_inRange hin
    exact ⟨okQ w, dataless 0x00#8, _, _, w, by rw [exec_toaq, hanswer], okQ_q w, okQ_qHi w, okQ_qLo w,
      receivedWord_bytes w, exec_toadq _ _ s, rfl, rfl⟩

/-! The opposite ToA and the laws of R158. -/

theorem toaNeg_sign (toa : ToaBits) : (toaNeg toa).getLsbD 63 = !toa.getLsbD 63 := by
  simp [toaNeg]

theorem toaNeg_exponent (toa : ToaBits) : (toaNeg toa).extractLsb' 52 11 = toa.extractLsb' 52 11 := by
  rw [toaNeg, BitVec.extractLsb'_xor, show BitVec.extractLsb' 52 11 0x8000000000000000#64 = 0#11 from rfl,
    BitVec.xor_zero]

theorem toaNeg_fraction (toa : ToaBits) : (toaNeg toa).extractLsb' 0 52 = toa.extractLsb' 0 52 := by
  rw [toaNeg, BitVec.extractLsb'_xor, show BitVec.extractLsb' 0 52 0x8000000000000000#64 = 0#52 from rfl,
    BitVec.xor_zero]

theorem toaReal_toaNeg (toa : ToaBits) : toaReal (toaNeg toa) = -toaReal toa := by
  have hsign : (if (toaNeg toa).getLsbD 63 then (-1 : ℚ) else 1) = -(if toa.getLsbD 63 then -1 else 1) := by
    rw [toaNeg_sign]
    cases toa.getLsbD 63 <;> norm_num
  unfold toaReal
  dsimp only
  rw [hsign, toaNeg_exponent, toaNeg_fraction]
  split <;> ring

/-- The range is symmetric. -/
theorem toaInRange_toaNeg {toa : ToaBits} (h : toaInRange toa) : toaInRange (toaNeg toa) := by
  obtain ⟨hfinite, hlo, hhi⟩ := h
  refine ⟨by rwa [toaFinite, toaNeg_exponent], ?_, ?_⟩ <;> rw [toaReal_toaNeg] <;> linarith

/-- `t*` lies between 0 and 1/512. -/
theorem ne_tStar_of_outside {toa : ToaBits} (h : toaReal toa < 0 ∨ 1 / 512 ≤ toaReal toa) : toa ≠ tStar := by
  rintro rfl
  have hstar := toaReal_tStar
  norm_num at hstar
  rcases h with h | h <;> linarith

/-- From -1/512 up the word is the nearest one, ties upward (R158). -/
theorem abs_exactWord_sub_le {toa : ToaBits} (h : -1 / 512 ≤ toaReal toa) (hne : toa ≠ tStar) :
    |(exactWord toa : ℚ) - 256 * toaReal toa| ≤ 1 / 2 := by
  rw [exactWord_of_ne hne, truncate_of_nonneg (by linarith), abs_le]
  have hle := Int.floor_le (256 * toaReal toa + 1 / 2)
  have hlt := Int.lt_floor_add_one (256 * toaReal toa + 1 / 2)
  constructor <;> linarith

/-- Below -1/512 the word lies above the exact value (R158). -/
theorem exactWord_sub_bounds {toa : ToaBits} (h : toaReal toa < -1 / 512) :
    1 / 2 ≤ (exactWord toa : ℚ) - 256 * toaReal toa ∧ (exactWord toa : ℚ) - 256 * toaReal toa < 3 / 2 := by
  rw [exactWord_of_ne (ne_tStar_of_outside (.inl (by linarith))), truncate_of_nonpos (by linarith)]
  have hle := Int.le_ceil (256 * toaReal toa + 1 / 2)
  have hlt := Int.ceil_lt_add_one (256 * toaReal toa + 1 / 2)
  constructor <;> linarith

/-- From 1/512 up the word of the opposite ToA is the mirror image about one half (R158). -/
theorem exactWord_toaNeg_of_ge {toa : ToaBits} (h : 1 / 512 ≤ toaReal toa) :
    exactWord (toaNeg toa) = 1 - exactWord toa := by
  have hneg : toaReal (toaNeg toa) = -toaReal toa := toaReal_toaNeg toa
  have hmirror : 256 * toaReal (toaNeg toa) + 1 / 2 = 1 - (256 * toaReal toa + 1 / 2) := by rw [hneg]; ring
  rw [exactWord_of_ne (ne_tStar_of_outside (.inl (by linarith))),
    exactWord_of_ne (ne_tStar_of_outside (.inr h)), hmirror, truncate_of_nonpos (by linarith),
    truncate_of_nonneg (by linarith), sub_eq_add_neg, Int.ceil_one_add, Int.ceil_neg, sub_eq_add_neg]

/-- Between -1/512 and 1/512 the word is 0, but at `t*` (R158). -/
theorem exactWord_of_small {toa : ToaBits} (hlo : -1 / 512 ≤ toaReal toa) (hhi : toaReal toa < 1 / 512)
    (hne : toa ≠ tStar) : exactWord toa = 0 := by
  rw [exactWord_of_ne hne, truncate_of_nonneg (by linarith), Int.floor_eq_zero_iff]
  constructor <;> linarith

/-- Settles O36: the word is the one of R157, and each clause is a law of that word. -/
theorem toaqErrorAndMirrorLaw : Obligations.ToaqErrorAndMirrorLaw := by
  intro s toa hin
  obtain ⟨w, hword, hw⟩ := toaqWord_of_inRange s hin
  obtain ⟨w', hword', hw'⟩ := toaqWord_of_inRange s (toaInRange_toaNeg hin)
  refine ⟨w, w', hword, hword', ?_⟩
  rw [hw, hw']
  refine ⟨abs_exactWord_sub_le, exactWord_sub_bounds, exactWord_toaNeg_of_ge, fun hpos hsmall => ⟨?_, ?_⟩⟩
  · have hneg : toaReal (toaNeg toa) = -toaReal toa := toaReal_toaNeg toa
    exact exactWord_of_small (by linarith) (by linarith) (ne_tStar_of_outside (.inl (by linarith)))
  · split
    · next hstar => rw [hstar, exactWord_tStar]
    · next hne => exact exactWord_of_small (by linarith) hsmall hne

/-- The word is less than one and a half LSB from the exact value, `t*` included. -/
theorem abs_exactWord_sub_lt (toa : ToaBits) : |(exactWord toa : ℚ) - 256 * toaReal toa| < 3 / 2 := by
  by_cases hstar : toa = tStar
  · rw [hstar, exactWord_tStar, toaReal_tStar]
    norm_num
  rcases lt_or_ge (toaReal toa) (-1 / 512) with hbelow | habove
  · obtain ⟨hlo, hhi⟩ := exactWord_sub_bounds hbelow
    rwa [abs_of_nonneg (by linarith)]
  · exact (abs_exactWord_sub_le habove hstar).trans_lt (by norm_num)

/-- Settles O37: the distance in LSBs, scaled to symbol periods. -/
theorem toaqWordStandsForANearbyToa : Obligations.ToaqWordStandsForANearbyToa := by
  intro s toa w hword
  have hscale : q8Real w - toaReal toa = ((exactWord toa : ℚ) - 256 * toaReal toa) * (1 / 256) := by
    rw [q8Real, toInt_of_toaqWord hword]
    ring
  rw [hscale, abs_mul, abs_of_pos (by norm_num : (0 : ℚ) < 1 / 256)]
  exact mul_lt_mul_of_pos_right (abs_exactWord_sub_lt toa) (by norm_num)

end Sys2Proof.Machine
end

section
/-!
Error responses (spec/60_exceptions.md): every request gets a response and the unit serves on (R200, R212), an error
carries its status and no data (R200, R201), and the status is that of the first check that applies (R207).
-/

namespace Sys2Proof

/-- A request whose `op` is not assigned has no operation (R65, R202). -/
theorem decode_error_of_not_mem_assignedOps {r : Request} (h : r.op ∉ Safety.assignedOps) :
    ∃ e, decode r = .error e := by
  cases hdecode : decode r with
  | error e => exact ⟨e, rfl⟩
  | ok i => exact absurd (op_mem_assignedOps_of_decode hdecode) h

/-- Everything the decoder can answer, each operation with the request's own operands (R61, R62, R64). -/
theorem decode_cases (r : Request) :
    (r.op ∉ Safety.assignedOps ∧ ∃ e, decode r = .error e) ∨
    (r.op = 0x10#8 ∧ decode r = .ok (.ubit2sbit r.seqOperand)) ∨
    (r.op = 0x11#8 ∧ decode r = .ok (.sbit2ubit r.seqOperand)) ∨
    (r.op = 0x12#8 ∧ decode r = .ok (.sbit2hbit r.seqOperand)) ∨
    (r.op = 0x13#8 ∧ decode r = .ok (.hbit2sbit r.seqOperand)) ∨
    (r.op = 0x20#8 ∧ decode r = .ok (.burstchk r.seqOperand)) ∨
    (r.op = 0x30#8 ∧ decode r = .ok (.toachk r.toaOperand)) ∨
    (r.op = 0x31#8 ∧ decode r = .ok (.toaq r.toaOperand)) ∨
    (r.op = 0x32#8 ∧ decode r = .ok (.toadq r.wHi r.wLo)) := by
  by_cases hop : r.op ∈ Safety.assignedOps
  · simp only [Safety.assignedOps, List.mem_cons, List.not_mem_nil, or_false] at hop
    rcases hop with h | h | h | h | h | h | h | h <;> simp [decode, h]
  · exact .inl ⟨hop, decode_error_of_not_mem_assignedOps hop⟩

theorem Request.seqOperand_eq_none_iff {r : Request} : r.seqOperand = none ↔ r.seqPresent = false := by
  simp [Request.seqOperand]

theorem Request.seqOperand_eq_some_iff {r : Request} {l : List Lane} :
    r.seqOperand = some l ↔ r.seqPresent = true ∧ r.seq = l := by
  simp [Request.seqOperand]

end Sys2Proof

namespace Sys2Proof.Machine

open Sys2Proof.Safety

/-- Settles O7: an idle step and a served request both end in a next state. -/
theorem stepAlwaysGoesOn : Obligations.StepAlwaysGoesOn :=
  step_goesOn

/-- What holds of the response that serving delivers holds of the response a step leaves on the output port (R47). -/
theorem step_delivers {s : State} {r : Request} {rsp : Response} {good : Response → Prop}
    (hrequest : s.request = some r)
    (hserve : serveRequest r s.takeRequest = .next (s.takeRequest.respond rsp)) (hgood : good rsp) :
    ∃ t rsp, step s = .next t ∧ t.cfg = s.cfg ∧ t.response = some rsp ∧ good rsp :=
  ⟨_, rsp, (step_of_request hrequest).trans hserve, rfl, rfl, hgood⟩

/-- After an error a good response is nothing but its status (R200): no word is left, so its bytes are absent too. -/
theorem eq_dataless_of_goodResponse {cfg : Cfg} {rsp : Response} (hgood : goodResponse cfg rsp)
    (herror : rsp.status ≠ 0x00#8) : rsp = dataless rsp.status := by
  obtain ⟨-, hdata, htoa, hhi, hlo, -, -⟩ := hgood
  obtain ⟨hvalid, hq, hseq⟩ := hdata herror
  rw [hq, Option.map_none] at hhi hlo
  cases rsp
  simp only at hvalid hq hseq htoa hhi hlo
  simp only [dataless, hvalid, hq, hseq, htoa, hhi, hlo]

/-- Settles O11: serving delivers a good response. -/
theorem errorResponsesCarryNoData : Obligations.ErrorResponsesCarryNoData := by
  intro s r hrequest
  obtain ⟨rsp, hserve, hgood⟩ := serveRequest_delivers_goodResponse r s.takeRequest
  have ⟨hstatus, _⟩ := hgood
  exact step_delivers hrequest hserve ⟨hstatus, eq_dataless_of_goodResponse hgood⟩

/-! The status of each answer, by the fields of the request and in the order of R207. -/

/-- A converter operation (R204, R205): an absent sequence, the capacity, a lane outside the domain. -/
theorem convert_status {dom : Lane → Bool} {r : Request} {outside : Prop} [Decidable outside]
    (hout : r.seq.all dom = true ↔ ¬ outside) (cfg : Cfg) (f : Lane → Lane) :
    (convert cfg dom f r.seqOperand).status =
      if r.seqPresent = false then 0x02#8
      else if r.seqPresent = true ∧ cfg.maxSeqLen.admits r.seq.length = false then 0x04#8
      else if outside then 0x02#8
      else 0x00#8 := by
  rcases convert_cases cfg dom f r.seqOperand with ⟨habsent, hanswer⟩ | ⟨l, hsome, hpresent⟩
  · simp [hanswer, Request.seqOperand_eq_none_iff.mp habsent, Status.code]
  · obtain ⟨hbit, rfl⟩ := Request.seqOperand_eq_some_iff.mp hsome
    simp only [overCapacity_eq, Bool.not_eq_true', Bool.not_eq_false'] at hpresent
    rcases hpresent with ⟨hover, hanswer⟩ | ⟨hfits, hdom, hanswer⟩ | ⟨hfits, hdom, hanswer⟩
    · simp [hanswer, hbit, hover, Status.code]
    · simp [hanswer, hbit, hfits, hout.mp hdom]
    · have houtside : outside := by simpa [hdom] using hout
      simp [hanswer, hbit, hfits, houtside, Status.code]

/-- BURSTCHK (R130, R204): only the capacity check raises an error. -/
theorem burstAnswer_status (cfg : Cfg) (r : Request) :
    (burstAnswer cfg r.seqOperand).status =
      if r.seqPresent = true ∧ cfg.maxSeqLen.admits r.seq.length = false then 0x04#8 else 0x00#8 := by
  rcases burstAnswer_cases cfg r.seqOperand with ⟨habsent, hanswer⟩ | ⟨l, hsome, hpresent⟩
  · simp [hanswer, Request.seqOperand_eq_none_iff.mp habsent]
  · obtain ⟨hbit, rfl⟩ := Request.seqOperand_eq_some_iff.mp hsome
    simp only [overCapacity_eq, Bool.not_eq_true', Bool.not_eq_false'] at hpresent
    rcases hpresent with ⟨hover, hanswer⟩ | ⟨hfits, hanswer⟩
    · simp [hanswer, hbit, hover, Status.code]
    · simp [hanswer, hfits]

/-- TOACHK raises no error (R203). -/
@[simp] theorem toachkAnswer_status (toa : Option ToaBits) : (toachkAnswer toa).status = 0x00#8 := rfl

/-- TOADQ raises no error (R160). -/
@[simp] theorem toadqAnswer_status (w : Q8) : (toadqAnswer w).status = 0x00#8 := rfl

/-- The range check accepts the operand of a request exactly when it is present and in range (R151). -/
theorem acceptedToa_toaOperand_isSome_iff (r : Request) :
    (acceptedToa r.toaOperand).isSome = true ↔ r.toaPresent = true ∧ toaInRange r.toa := by
  simp [acceptedToa_isSome_iff, Request.toaOperand]

/-- TOAQ (R152, R203): VALIDATION exactly when the range check rejects. -/
theorem toaqAnswer_status (r : Request) :
    (toaqAnswer r.toaOperand).status =
      if ¬ (r.toaPresent = true ∧ toaInRange r.toa) then 0x01#8 else 0x00#8 := by
  simp only [← acceptedToa_toaOperand_isSome_iff]
  rcases toaqAnswer_cases r.toaOperand with ⟨hrejected, hanswer⟩ | ⟨t, haccepted, hanswer⟩
  · simp [hrejected, hanswer, Status.code]
  · simp [haccepted, hanswer]

/-- A sequence leaves the domain of HBIT2SBIT exactly by a lane that is neither hard bit (R107). -/
theorem all_isHbit_iff_not_exists_ne (l : List Lane) :
    l.all isHbit = true ↔ ¬ ∃ lane ∈ l, lane ≠ 0x00#8 ∧ lane ≠ 0x01#8 := by
  simp [isHbit_iff, or_iff_not_imp_left]

/-- Settles O12: `op` selects the operation, and with it the checks that can apply. -/
theorem statusIsTheFirstApplicableError : Obligations.StatusIsTheFirstApplicableError := by
  intro s r hrequest
  rcases decode_cases r with ⟨hop, e, hdecode⟩ | ⟨hop, hdecode⟩ | ⟨hop, hdecode⟩ | ⟨hop, hdecode⟩ |
    ⟨hop, hdecode⟩ | ⟨hop, hdecode⟩ | ⟨hop, hdecode⟩ | ⟨hop, hdecode⟩ | ⟨hop, hdecode⟩
  case inl =>
    refine step_delivers hrequest (serveRequest_of_illegal hdecode _) ?_
    simp [hop, Status.code]
  all_goals refine step_delivers hrequest (serveRequest_of_decode hdecode _) ?_
  · have hdom : r.seq.all isUbit = true ↔ ¬ False := by simp [all_isUbit]
    simp [hop, assignedOps, convert_status hdom]
  · simp [hop, assignedOps, convert_status (all_isSbit_iff r.seq)]
  · simp [hop, assignedOps, convert_status (all_isSbit_iff r.seq)]
  · simp [hop, assignedOps, convert_status (all_isHbit_iff_not_exists_ne r.seq)]
  · simp [hop, assignedOps, burstAnswer_status]
  · simp [hop, assignedOps]
  · simp [hop, assignedOps, toaqAnswer_status]
  · simp [hop, assignedOps]

end Sys2Proof.Machine
end

section
/-!
Reset (spec/70_reset_and_hazards.md): a unit left without requests stays as it is over any number of steps, so a
request lost at reset is answered only once it is issued again (R231).
-/

namespace Sys2Proof.Machine

/-- A unit with no request on its port steps to itself. -/
theorem step_of_no_request {s : State} (h : s.request = none) : step s = .next s := by
  rcases step_cases s with ⟨-, hidle⟩ | ⟨r, _, hrequest, -, -⟩
  · exact hidle
  · cases h.symm.trans hrequest

/-- A state that steps to itself is where every run from it ends. -/
theorem run_of_step_eq_self {M : Host.Core} {s : M.State} (h : M.step s = .next s) (k : Nat) :
    M.run k s = .next s := by
  induction k with
  | zero => rfl
  | succ k ih => rw [Host.Core.run, h]; exact ih

/-- Issuing the request that is already on the port makes no difference to the step. -/
theorem step_issue_of_request {s : State} {r : Request} (h : s.request = some r) :
    step (s.issue r) = step s :=
  (step_issue s r).trans (step_of_request h).symm

/-- Settles O16: reset empties the input port, so the unit idles, and keeps the configuration, so the request issued
again is served as it would have been. -/
theorem requestInFlightAtResetIsLost : Obligations.RequestInFlightAtResetIsLost := by
  intro s r hrequest
  have hidle : Sys2Proof.core.step s.applyReset = .next s.applyReset :=
    step_of_no_request s.applyReset_request
  refine ⟨fun k => ⟨run_of_step_eq_self hidle k, s.applyReset_response⟩, ?_⟩
  calc step (s.applyReset.issue r)
      = step (s.issue r) := step_issue_of_cfg_eq s.applyReset_cfg r
    _ = step s := step_issue_of_request hrequest

end Sys2Proof.Machine
end


section
/-!
The idle step. The spec does not say what a unit without a request does; the model's choice (log 5) is that it idles.
-/

namespace Sys2Proof.Machine

/-- Settles O6: of the two steps a unit can take, serving needs a request on the port, so with none it idles. -/
theorem stepIdlesWithoutARequest : Obligations.StepIdlesWithoutARequest := by
  intro s hrequest
  exact step_of_no_request hrequest

end Sys2Proof.Machine
end
